-- ==== Sys2Proof/Word.lean ====
section
/-! DEFINITION. The two data widths of the core (00_scope.md R7, R8): a byte is 8 bits, a word is
16 bits. `+` and `-` on `Word` are the spec's `+16` and `-16`, arithmetic modulo 65536 (R8). -/

namespace Sys2Proof

/-- A byte: a memory cell, the accumulator or a half-register (00_scope.md R7, R8). -/
abbrev Byte := BitVec 8

/-- A word: an address, a register pair's wide value, `SP`, `pc`, `IR`, `MAR` or `MDR` (R7, R8). -/
abbrev Word := BitVec 16

end Sys2Proof
end

