-- ==== Sys2Proof/Config.lean ====
section
/-! DEFINITION. What the spec leaves free, as constants without a body, and the values of the parameter
CYCLES_WIDTH, which 00_scope.md R7 marks OPEN. -/

namespace Sys2Proof

/-- What `MAR` holds after the step that makes the `n`-th draw. 10_state.md R31: "after any step they
may hold any 16-bit values, and a model draws them freely". DESIGN CHOICE of the form, log 1: safe for
a claim about one run, unsafe for one that compares these registers in two runs. -/
opaque Config.freeMar : Nat → Word

/-- What `MDR` holds after the step that makes the `n`-th draw (10_state.md R31). DESIGN CHOICE of the
form, log 1: safe and unsafe as `Config.freeMar` is. -/
opaque Config.freeMdr : Nat → Word

/-- CYCLES_WIDTH, the width of the cycle counter: "unbounded (a natural number)", or the width of "a
finite-width realisation" (00_scope.md R7, 92_eei_decisions.md D6). An argument of the model, default
`unbounded`: see Machine/CycleWidth.lean. -/
inductive CycleWidth where
  | unbounded
  | bits (width : Nat)
deriving DecidableEq, Repr

end Sys2Proof
end

