-- ==== Sys2Proof/Syntax.lean ====
section
/-! DEFINITION. The instructions, one constructor for each row of spec/opcode_table.json in the
table's order (30_encoding.md R95, R96, R99, R100), and the names operands and transactions use. -/

namespace Sys2Proof

/-- The three register pairs (10_state.md R22). -/
inductive Pair where
  | bc | de | hl
deriving DecidableEq, Repr

/-- The six half-registers (10_state.md R23). -/
inductive Half where
  | b | c | d | e | h | l
deriving DecidableEq, Repr

/-- The eight modes of the addressing-mode resolver (20_memory.md R70 to R78). -/
inductive AddressingMode where
  /-- R71: the value of `MDR`. -/
  | implied
  /-- R72: the byte at `pc`. -/
  | immediateEight
  /-- R73: the little-endian word at `pc`. -/
  | immediateSixteen
  /-- R74: the byte at 0xFF00 plus `pc` itself. -/
  | unsignedEight
  /-- R75: the byte at a given address. -/
  | addressSixteen (addr : Word)
  /-- R76: the byte at `pc`, sign-extended. -/
  | signedEight
  /-- R77: the byte at the address a pair holds. -/
  | registerPairDirect (rr : Pair)
  /-- R78: the byte at the address one half of a pair holds. -/
  | registerDirect (rr : Pair) (useHigh : Bool)
deriving DecidableEq, Repr

/-- The instructions. An immediate is the instruction's own operand bytes (30_encoding.md R97, R98). -/
inductive Instr where
  /-- 0x00, R180. -/
  | nop
  /-- 0x01, R131. -/
  | ldBcD16 (d16 : Word)
  /-- 0x02, R135. -/
  | ldAtBcA
  /-- 0x03, R151. -/
  | incBc
  /-- 0x04, R159. -/
  | incB
  /-- 0x05, R166. -/
  | decB
  /-- 0x06, R139. -/
  | ldBD8 (d8 : Byte)
  /-- 0x07, R181. -/
  | rlca
  /-- 0x08, R145. -/
  | ldAtA16Sp (a16 : Word)
  /-- 0x0B, R155. -/
  | decBc
  /-- 0x0C, R160. -/
  | incC
  /-- 0x0D, R167. -/
  | decC
  /-- 0x0E, R140. -/
  | ldCD8 (d8 : Byte)
  /-- 0x0F, R182. -/
  | rrca
  /-- 0x11, R132. -/
  | ldDeD16 (d16 : Word)
  /-- 0x12, R136. -/
  | ldAtDeA
  /-- 0x13, R152. -/
  | incDe
  /-- 0x14, R161. -/
  | incD
  /-- 0x15, R168. -/
  | decD
  /-- 0x16, R141. -/
  | ldDD8 (d8 : Byte)
  /-- 0x1B, R156. -/
  | decDe
  /-- 0x1C, R162. -/
  | incE
  /-- 0x1D, R169. -/
  | decE
  /-- 0x1E, R142. -/
  | ldED8 (d8 : Byte)
  /-- 0x21, R133. -/
  | ldHlD16 (d16 : Word)
  /-- 0x23, R153. -/
  | incHl
  /-- 0x24, R163. -/
  | incH
  /-- 0x25, R170. -/
  | decH
  /-- 0x26, R143. -/
  | ldHD8 (d8 : Byte)
  /-- 0x2B, R157. -/
  | decHl
  /-- 0x2C, R164. -/
  | incL
  /-- 0x2D, R171. -/
  | decL
  /-- 0x2E, R144. -/
  | ldLD8 (d8 : Byte)
  /-- 0x31, a faulting slot, R185. -/
  | ldSpD16
  /-- 0x33, a faulting slot, R186. -/
  | incSp
  /-- 0x3B, a faulting slot, R187. -/
  | decSp
  /-- 0x3C, a faulting slot, R188. -/
  | incA
  /-- 0x3D, a faulting slot, R189. -/
  | decA
  /-- 0x3E, a faulting slot, R190. -/
  | ldAD8
  /-- 0x77, R137. -/
  | ldAtHlA
  /-- Each of the other 216 opcode bytes, R183; the byte itself is kept, for `IR` shows it. -/
  | unimpl (opcode : Byte)
deriving DecidableEq, Repr

end Sys2Proof
end

