-- ==== Sys2Proof/WellFormed.lean ====
section
/-! DEFINITION. Which terms of `Instr` stand for an instruction. Every immediate of its width is
legal (30_encoding.md R97, R98); the one check is that `unimpl` carries one of the 216 bytes without a
row of their own (R100). -/

namespace Sys2Proof

/-- The opcode bytes of the 34 defined instructions (30_encoding.md R96). -/
def definedOpcodes : List Byte :=
  [0x00, 0x01, 0x02, 0x03, 0x04, 0x05, 0x06, 0x07, 0x08, 0x0B, 0x0C, 0x0D, 0x0E, 0x0F] ++
  [0x11, 0x12, 0x13, 0x14, 0x15, 0x16, 0x1B, 0x1C, 0x1D, 0x1E] ++
  [0x21, 0x23, 0x24, 0x25, 0x26, 0x2B, 0x2C, 0x2D, 0x2E] ++
  [0x77]

/-- The opcode bytes of the 6 faulting slots (30_encoding.md R99). -/
def faultingOpcodes : List Byte := [0x31, 0x33, 0x3B, 0x3C, 0x3D, 0x3E]

/-- Whether an opcode byte is one of the 216 with the dispatch entry UNIMPL (30_encoding.md R100:
"every byte not in rule R96 and not in rule R99"). -/
def isUnimplemented (opcode : Byte) : Bool :=
  !(definedOpcodes.contains opcode) && !(faultingOpcodes.contains opcode)

/-- Whether a term stands for an instruction of the core. -/
def Instr.wellFormed : Instr → Bool
  | .nop | .ldBcD16 _ | .ldAtBcA | .incBc | .incB | .decB | .ldBD8 _ | .rlca => true
  | .ldAtA16Sp _ | .decBc | .incC | .decC | .ldCD8 _ | .rrca => true
  | .ldDeD16 _ | .ldAtDeA | .incDe | .incD | .decD | .ldDD8 _ => true
  | .decDe | .incE | .decE | .ldED8 _ => true
  | .ldHlD16 _ | .incHl | .incH | .decH | .ldHD8 _ => true
  | .decHl | .incL | .decL | .ldLD8 _ => true
  | .ldSpD16 | .incSp | .decSp | .incA | .decA | .ldAD8 | .ldAtHlA => true
  | .unimpl opcode => isUnimplemented opcode

end Sys2Proof
end

