-- ==== Sys2Proof/Decode.lean ====
section
/-! DEFINITION. From bytes to an instruction and back (30_encoding.md R90 to R102). Every byte has a
dispatch entry (R95, 40_engine_step.md R112), so the only rejection is of a byte list that ends inside
an instruction, which memory never does. -/

namespace Sys2Proof

/-- `{hi, lo} = hi*256 + lo` (00_scope.md R8, 20_memory.md R64). -/
def joinBytes (hi lo : Byte) : Word := BitVec.ofNat 16 (hi.toNat * 256 + lo.toNat)

/-- `v[15:8]`, that is `v >> 8` (00_scope.md R8, 10_state.md R24). -/
def highByte (v : Word) : Byte := BitVec.ofNat 8 (v.toNat / 256)

/-- `v[7:0]`, that is `v & 0xFF` (00_scope.md R8, 10_state.md R24). -/
def lowByte (v : Word) : Byte := BitVec.ofNat 8 (v.toNat % 256)

/-- The dispatch table of 30_encoding.md R95, with the operands the formats of R91 to R93 give: the
opcode byte alone selects the entry, `d8` is byte 1 (R97) and `d16` is bytes 1 and 2 (R98). -/
def dispatch (opcode d8 : Byte) (d16 : Word) : Instr :=
  match opcode.toNat with
  | 0x00 => .nop
  | 0x01 => .ldBcD16 d16
  | 0x02 => .ldAtBcA
  | 0x03 => .incBc
  | 0x04 => .incB
  | 0x05 => .decB
  | 0x06 => .ldBD8 d8
  | 0x07 => .rlca
  | 0x08 => .ldAtA16Sp d16
  | 0x0B => .decBc
  | 0x0C => .incC
  | 0x0D => .decC
  | 0x0E => .ldCD8 d8
  | 0x0F => .rrca
  | 0x11 => .ldDeD16 d16
  | 0x12 => .ldAtDeA
  | 0x13 => .incDe
  | 0x14 => .incD
  | 0x15 => .decD
  | 0x16 => .ldDD8 d8
  | 0x1B => .decDe
  | 0x1C => .incE
  | 0x1D => .decE
  | 0x1E => .ldED8 d8
  | 0x21 => .ldHlD16 d16
  | 0x23 => .incHl
  | 0x24 => .incH
  | 0x25 => .decH
  | 0x26 => .ldHD8 d8
  | 0x2B => .decHl
  | 0x2C => .incL
  | 0x2D => .decL
  | 0x2E => .ldLD8 d8
  | 0x31 => .ldSpD16
  | 0x33 => .incSp
  | 0x3B => .decSp
  | 0x3C => .incA
  | 0x3D => .decA
  | 0x3E => .ldAD8
  | 0x77 => .ldAtHlA
  | _ => .unimpl opcode

/-- The opcodes of format OP_D8 (30_encoding.md R92, R102). -/
def twoByteOpcodes : List Byte := [0x06, 0x0E, 0x16, 0x1E, 0x26, 0x2E]

/-- The opcodes of format OP_D16 (30_encoding.md R93, R102). -/
def threeByteOpcodes : List Byte := [0x01, 0x11, 0x21, 0x08]

/-- The length of an instruction in bytes, told by its opcode byte alone (30_encoding.md R102). -/
def opcodeLength (opcode : Byte) : Nat :=
  if twoByteOpcodes.contains opcode then 2
  else if threeByteOpcodes.contains opcode then 3
  else 1

/-- Why a list of bytes is not the encoding of an instruction. Memory never ends inside an
instruction (addresses wrap, R90), so a step never meets one of these; safe. -/
inductive DecodeRejection where
  /-- The list is empty. -/
  | noOpcode
  /-- The list ends before the operand bytes that this opcode's format has. -/
  | operandBytesMissing (opcode : Byte)
deriving DecidableEq, Repr

/-- The instruction at the head of a list of bytes and the bytes after it (30_encoding.md R90 to
R93, R102). An operand the opcode's format does not have is passed to `dispatch` as 0. -/
def decode : List Byte → Except DecodeRejection (Instr × List Byte)
  | [] => .error .noOpcode
  | opcode :: rest =>
    match opcodeLength opcode, rest with
    | 1, rest => .ok (dispatch opcode 0 0, rest)
    | 2, d8 :: rest => .ok (dispatch opcode d8 0, rest)
    | 3, lo :: hi :: rest => .ok (dispatch opcode 0 (joinBytes hi lo), rest)
    | _, _ => .error (.operandBytesMissing opcode)

/-- The bytes of an instruction, opcode first (30_encoding.md R90 to R93, R96, R99). -/
def encode : Instr → List Byte
  | .nop => [0x00]
  | .ldBcD16 d16 => [0x01, lowByte d16, highByte d16]
  | .ldAtBcA => [0x02]
  | .incBc => [0x03]
  | .incB => [0x04]
  | .decB => [0x05]
  | .ldBD8 d8 => [0x06, d8]
  | .rlca => [0x07]
  | .ldAtA16Sp a16 => [0x08, lowByte a16, highByte a16]
  | .decBc => [0x0B]
  | .incC => [0x0C]
  | .decC => [0x0D]
  | .ldCD8 d8 => [0x0E, d8]
  | .rrca => [0x0F]
  | .ldDeD16 d16 => [0x11, lowByte d16, highByte d16]
  | .ldAtDeA => [0x12]
  | .incDe => [0x13]
  | .incD => [0x14]
  | .decD => [0x15]
  | .ldDD8 d8 => [0x16, d8]
  | .decDe => [0x1B]
  | .incE => [0x1C]
  | .decE => [0x1D]
  | .ldED8 d8 => [0x1E, d8]
  | .ldHlD16 d16 => [0x21, lowByte d16, highByte d16]
  | .incHl => [0x23]
  | .incH => [0x24]
  | .decH => [0x25]
  | .ldHD8 d8 => [0x26, d8]
  | .decHl => [0x2B]
  | .incL => [0x2C]
  | .decL => [0x2D]
  | .ldLD8 d8 => [0x2E, d8]
  | .ldSpD16 => [0x31]
  | .incSp => [0x33]
  | .decSp => [0x3B]
  | .incA => [0x3C]
  | .decA => [0x3D]
  | .ldAD8 => [0x3E]
  | .ldAtHlA => [0x77]
  | .unimpl opcode => [opcode]

/-- The three bytes of an instruction whose bits are the low `nbits` bits of `w`, bit 0 the least
significant bit of the first byte; the longest instruction has three bytes (30_encoding.md R90). -/
def tableBytes (nbits w : Nat) : List Byte :=
  let bits := BitVec.ofNat 24 (w % 2 ^ nbits)
  [bits.extractLsb' 0 8, bits.extractLsb' 8 8, bits.extractLsb' 16 8]

/-- The instruction the decoder reads from a word of spec/opcode_table.json. -/
def decodeTableWord (nbits w : Nat) : Option Instr :=
  match decode (tableBytes nbits w) with
  | .ok (i, _) => some i
  | .error _ => none

end Sys2Proof
end

