-- ==== Sys2Proof/Machine/State.lean ====
section
/-! DEFINITION. The architectural state of the core (10_state.md R20), its reset value (R44), and what
can end a step (60_exceptions.md R200). -/

namespace Sys2Proof.Machine

/-- A register pair: "two 8-bit fields, `high` and `low`" (10_state.md R22). Its wide value is
computed, not stored (R23, R26). No tag records how a half was written (R27). -/
structure RegPair where
  high : Byte
  low : Byte
deriving DecidableEq, Repr

/-- The memory as (address, byte) pairs in canonical form (`Memory.wf`): an address that is not listed
holds 0x00, as every cell does after reset (10_state.md R44, 20_memory.md R82). -/
abbrev Memory := List Host.Cell

/-- The complete state of the core, 10_state.md R20, and one field of the model's own, `draws`. -/
structure State where
  /-- `A`, the accumulator (R21). -/
  a : Byte
  /-- The pair `BC` = `{B, C}` (R22, R23). -/
  bc : RegPair
  /-- The pair `DE` = `{D, E}` (R22, R23). -/
  de : RegPair
  /-- The pair `HL` = `{H, L}` (R22, R23). -/
  hl : RegPair
  /-- `SP`, the stack pointer (R28). -/
  sp : Word
  /-- `pc`, the program counter (R30). -/
  pc : Word
  /-- `IR`, the instruction register (R31). -/
  ir : Word
  /-- `MAR`, unspecified after every step (R31). -/
  mar : Word
  /-- `MDR`, unspecified after every step (R31). -/
  mdr : Word
  /-- The zero flag (R38, R40). -/
  fZ : Bool
  /-- The subtraction flag (R38, R40). -/
  fN : Bool
  /-- The half-carry flag (R38, R40). -/
  fH : Bool
  /-- The carry flag (R38, R40). -/
  fC : Bool
  /-- The 65536 cells of memory (R41). -/
  mem : Memory
  /-- The cycle counter (R32): unbounded in `step`, of the width the argument CYCLES_WIDTH gives in
  `stepWith` (log 17). -/
  cycles : Nat
  /-- The model's own: how many free values `MAR` and `MDR` have been given (log 1). -/
  draws : Nat
deriving DecidableEq, Repr

/-- The three kinds of error of the core and its ports, with what each hands to the host
(60_exceptions.md R200 to R205: an enumeration of names, no cause codes). -/
inductive EngineError where
  /-- R201: a faulting slot, always; carries the opcode byte. -/
  | invalidRegisterTarget (opcode : Byte)
  /-- R202: a BCD write of a decimal value outside 0 to 99, by INC r, DEC r or the host's BCD write
  port; carries the value. -/
  | encodingError (value : Int)
  /-- R204: a LOAD that would pass the last cell; never a step. -/
  | boundsError
deriving DecidableEq, Repr

/-- How a step stops the run. -/
inductive Fault where
  /-- Raised by the six faulting slots (`invalidRegisterTarget`) and by INC r and DEC r out of range
  (`encodingError`). The step's outcome is `Err(error)` and `after` is the state that
  60_exceptions.md R203 says the core is left in, from which the host may go on
  (`Sys2Proof.Machine.transact`). R209: "treat an error outcome as a fault that ends the run, never
  as a final state". Safe, log 2. -/
  | raised (error : EngineError) (after : State)
deriving DecidableEq, Repr

/-- Why the model gives an instruction no meaning. -/
inductive Refusal where
  /-- Raised by an arm of `exec` whose instruction has no meaning yet; no arm is left that raises it.
  Safe. -/
  | notModelled (mnemonic : String)
deriving DecidableEq, Repr

/-- The state right after reset: everything is 0 (10_state.md R44, 70_reset_and_hazards.md R230).
`draws` is the model's own field, DESIGN CHOICE 0, log 1. -/
def State.reset : State where
  a := 0x00
  bc := ⟨0x00, 0x00⟩
  de := ⟨0x00, 0x00⟩
  hl := ⟨0x00, 0x00⟩
  sp := 0x0000
  pc := 0x0000
  ir := 0x0000
  mar := 0x0000
  mdr := 0x0000
  fZ := false
  fN := false
  fH := false
  fC := false
  mem := []
  cycles := 0
  draws := 0

end Sys2Proof.Machine
end

