-- ==== Sys2Proof/Machine/Ops.lean ====
section
/-! DEFINITION. The operations every instruction is written over: memory, register pairs and halves,
the BCD unit, the phases of a step that all instructions share, and raising an error. -/

namespace Sys2Proof.Machine

/-- What one step answers. -/
abbrev StepOutcome := Host.Outcome State Fault Refusal

/-! ### Memory -/

/-- The number of cells, MEM_CELLS of 00_scope.md R7. -/
def Memory.cells : Nat := 65536

/-- What a cell reads as until it is written: the reset content (10_state.md R44, 20_memory.md R82). -/
def Memory.unwritten : Byte := 0x00

/-- The canonical form from address `lo` up: addresses rise strictly and stay below 65536, and no
listed cell holds what an unlisted one reads as. -/
def Memory.wfFrom (lo : Nat) : Memory → Bool
  | [] => true
  | (k, v) :: m =>
    decide (lo ≤ k) && decide (k < Memory.cells) && decide (v ≠ Memory.unwritten) && Memory.wfFrom (k + 1) m

/-- The canonical form of a memory, so that memories with equal cells are equal lists. -/
def Memory.wf (m : Memory) : Bool := Memory.wfFrom 0 m

/-- The byte in the cell at address `a` (20_memory.md R62). -/
def Memory.read : Memory → Nat → Byte
  | [], _ => Memory.unwritten
  | (k, v) :: m, a => if k = a then v else Memory.read m a

/-- List the cell `(a, v)`, or leave it out where `v` is what an unlisted cell reads as. -/
def Memory.cons (a : Nat) (v : Byte) (m : Memory) : Memory :=
  if v = Memory.unwritten then m else (a, v) :: m

/-- Set the cell at address `a` to `v` and nothing else (20_memory.md R63), keeping the canonical
form. -/
def Memory.write : Memory → Nat → Byte → Memory
  | [], a, v => Memory.cons a v []
  | (k, w) :: m, a, v =>
    if a < k then Memory.cons a v ((k, w) :: m)
    else if a = k then Memory.cons a v m
    else (k, w) :: Memory.write m a v

/-- Set a run of cells from `start` upward (20_memory.md R80). -/
def Memory.writeRun (m : Memory) (start : Nat) : List Byte → Memory
  | [] => m
  | v :: vs => Memory.writeRun (Memory.write m start v) (start + 1) vs

/-- `write_bytes(values, start_index)`: all of the run, or BoundsError and nothing (20_memory.md R80). -/
def Memory.writeBytes (m : Memory) (values : List Byte) (start : Nat) : Except EngineError Memory :=
  if start + values.length > Memory.cells then .error .boundsError
  else .ok (Memory.writeRun m start values)

/-- `MemRead(addr, 1)` (20_memory.md R62). -/
def State.memRead (s : State) (addr : Word) : Byte := Memory.read s.mem addr.toNat

/-- `MemRead(addr, 2)`: little-endian, the second address modulo 65536 (20_memory.md R64). -/
def State.memRead16 (s : State) (addr : Word) : Word :=
  joinBytes (s.memRead (addr + 1)) (s.memRead addr)

/-- `MemWrite(addr, 1, v)` (20_memory.md R63). -/
def State.memWrite (s : State) (addr : Word) (v : Byte) : State :=
  { s with mem := Memory.write s.mem addr.toNat v }

/-- `MemWrite(addr, 2, v)`: the less significant byte at `addr`, then the other at `addr +16 1`
(20_memory.md R65). -/
def State.memWrite16 (s : State) (addr : Word) (v : Word) : State :=
  (s.memWrite addr (lowByte v)).memWrite (addr + 1) (highByte v)

/-! ### Register pairs and half-registers -/

/-- `wide_value()`: `{high, low}` (10_state.md R26). -/
def RegPair.wide (p : RegPair) : Word := joinBytes p.high p.low

/-- The pair `set_wide(v)` leaves: `v[15:8]` and `v[7:0]`, with no BCD conversion (10_state.md R24). -/
def RegPair.ofWide (v : Word) : RegPair := ⟨highByte v, lowByte v⟩

/-- The pair named `rr`. -/
def State.pair (s : State) : Pair → RegPair
  | .bc => s.bc
  | .de => s.de
  | .hl => s.hl

/-- Replace the pair named `rr`. -/
def State.setPair (s : State) (rr : Pair) (p : RegPair) : State :=
  match rr with
  | .bc => { s with bc := p }
  | .de => { s with de := p }
  | .hl => { s with hl := p }

/-- `x[rr]`, the wide read (10_state.md R26). -/
def State.wide (s : State) (rr : Pair) : Word := (s.pair rr).wide

/-- `x[rr] <- v`, the wide write (10_state.md R24). -/
def State.setWide (s : State) (rr : Pair) (v : Word) : State := s.setPair rr (RegPair.ofWide v)

/-- `x[r]`, the raw byte of a half-register (10_state.md R23, R25). -/
def State.half (s : State) : Half → Byte
  | .b => s.bc.high
  | .c => s.bc.low
  | .d => s.de.high
  | .e => s.de.low
  | .h => s.hl.high
  | .l => s.hl.low

/-- `x[r] <- v`, the raw half write; the other half of the pair stays (10_state.md R25). -/
def State.setHalf (s : State) (r : Half) (v : Byte) : State :=
  match r with
  | .b => { s with bc := { s.bc with high := v } }
  | .c => { s with bc := { s.bc with low := v } }
  | .d => { s with de := { s.de with high := v } }
  | .e => { s with de := { s.de with low := v } }
  | .h => { s with hl := { s.hl with high := v } }
  | .l => { s with hl := { s.hl with low := v } }

/-- The half-register that is the high half of a pair (10_state.md R23). -/
def highHalf : Pair → Half
  | .bc => .b
  | .de => .d
  | .hl => .h

/-- The half-register that is the low half of a pair (10_state.md R23). -/
def lowHalf : Pair → Half
  | .bc => .c
  | .de => .e
  | .hl => .l

/-- `x[A] <- v` (10_state.md R21). -/
def State.setA (s : State) (v : Byte) : State := { s with a := v }

/-! ### The BCD conversion unit -/

/-- `b[7:4]` as a number. -/
def highNibble (b : Byte) : Nat := b.toNat / 16

/-- `b[3:0]` as a number. -/
def lowNibble (b : Byte) : Nat := b.toNat % 16

/-- `bcd_to_decimal(b)`, total, 0 to 165 (10_state.md R33). -/
def bcdToDecimal (b : Byte) : Nat := highNibble b * 10 + lowNibble b

/-- `decimal_to_bcd(d)`: the packed byte for 0 to 99, and no byte outside that range, where the
function fails (10_state.md R34). -/
def decimalToBcd (d : Int) : Option Byte :=
  if 0 ≤ d ∧ d ≤ 99 then
    some (BitVec.ofNat 8 (d.toNat / 10 % 10 * 16 + d.toNat % 10))
  else none

/-- The BCD write of a half: EncodingError outside 0 to 99, else the packed byte (10_state.md R35). -/
def State.setHalfBcd (s : State) (r : Half) (d : Int) : Except EngineError State :=
  match decimalToBcd d with
  | none => .error (.encodingError d)
  | some b => .ok (s.setHalf r b)

/-- `to_int()` of a pair (10_state.md R36). -/
def RegPair.toInt (p : RegPair) : Nat := bcdToDecimal p.high * 100 + bcdToDecimal p.low

/-! ### The phases of a step -/

/-- Give `MAR` and `MDR` fresh unspecified values (10_state.md R31, 40_engine_step.md R121), log 1. -/
def State.drawStaging (s : State) : State :=
  { s with mar := Config.freeMar s.draws, mdr := Config.freeMdr s.draws, draws := s.draws + 1 }

/-- Fetch: `x[IR] <- zext_16(MemRead(pc, 1)); pc <- pc +16 1` (40_engine_step.md R111). -/
def State.fetch (s : State) : State :=
  { s with ir := (s.memRead s.pc).zeroExtend 16, pc := s.pc + 1 }

/-- The opcode byte in `IR` (40_engine_step.md R112: `x[IR][7:0]`). -/
def State.opcode (s : State) : Byte := lowByte s.ir

/-- The end of a completed Execute phase: `pc` past the operand bytes, the fixed cost charged
(40_engine_step.md R113 to R115, R120 points 7 and 8), `MAR` and `MDR` unspecified (R121). -/
def State.retire (s : State) (operandBytes cost : Nat) : State :=
  { s.drawStaging with pc := s.pc + BitVec.ofNat 16 operandBytes, cycles := s.cycles + cost }

/-- `raise E(info)` in a handler, the core's whole "trap entry" (60_exceptions.md R203), applied to
the state as Fetch left it: Execute stops, `IR` and `pc` stay as Fetch left them, every other register,
flag and cell and `cycles` stay as before the step, `MAR` and `MDR` are unspecified, nothing is saved
and control goes nowhere; `Err(E)` goes to the host. There is no return from it (R209). -/
def raiseError (error : EngineError) (s : State) : StepOutcome :=
  .fault (.raised error s.drawStaging)

/-- The memory with a list of bytes laid at `addr` and on, addresses modulo 65536 (20_memory.md R66). -/
def State.layBytes (s : State) (addr : Word) : List Byte → State
  | [] => s
  | v :: vs => State.layBytes (s.memWrite addr v) (addr + 1) vs

end Sys2Proof.Machine
end

