-- ==== Sys2Proof/Machine/Operands.lean ====
section
/-! DEFINITION. The addressing-mode resolver, all eight modes (20_memory.md R70 to R79), and the
instruction a step decodes from what Fetch left. -/

namespace Sys2Proof.Machine

/-- `sext_16(b)` (00_scope.md R8). -/
def signExtendByte (b : Byte) : Word := b.signExtend 16

/-- `zext_16(b)` (00_scope.md R8). -/
def zeroExtendByte (b : Byte) : Word := b.zeroExtend 16

/-- The base the UnsignedEight mode adds to `pc` (20_memory.md R74), "the only address constant in the
source" (R69). -/
def unsignedEightBase : Word := 0xFF00

/-- `Resolve(mode)`: a word, and no change of state (20_memory.md R70 to R78). -/
def State.resolve (s : State) : AddressingMode → Word
  | .implied => s.mdr
  | .immediateEight => zeroExtendByte (s.memRead s.pc)
  | .immediateSixteen => s.memRead16 s.pc
  | .unsignedEight => zeroExtendByte (s.memRead (unsignedEightBase + s.pc))
  | .addressSixteen addr => zeroExtendByte (s.memRead addr)
  | .signedEight => signExtendByte (s.memRead s.pc)
  | .registerPairDirect rr => zeroExtendByte (s.memRead (s.wide rr))
  | .registerDirect rr true => zeroExtendByte (s.memRead (zeroExtendByte (s.pair rr).high))
  | .registerDirect rr false => zeroExtendByte (s.memRead (zeroExtendByte (s.pair rr).low))

/-- The instruction a step executes, on the state Fetch left: dispatch on `IR[7:0]` (40_engine_step.md
R112), `d8 = Resolve(ImmediateEight)[7:0]` and `d16 = Resolve(ImmediateSixteen)` (30_encoding.md R97,
R98). The operands are read here, before any write of the instruction (20_memory.md R85), log 3. -/
def State.fetchedInstr (s : State) : Instr :=
  dispatch s.opcode (lowByte (s.resolve .immediateEight)) (s.resolve .immediateSixteen)

end Sys2Proof.Machine
end

