-- ==== Sys2Proof/Machine/FaultingSlot.lean ====
section
/-! DEFINITION. The six faulting slots (43_rotate_nop_unimpl.md section 4). -/

namespace Sys2Proof.Machine

/-- Family of faulting slots (43_rotate_nop_unimpl.md R184): `raise
InvalidRegisterTarget(x[IR][7:0])`, before any register, flag or memory access. -/
def raiseInvalidTarget (s : State) : StepOutcome := raiseError (.invalidRegisterTarget s.opcode) s

/-- !LD SP,d16 (R185). -/
def execLdSpD16 (s : State) : StepOutcome := raiseInvalidTarget s

/-- !INC SP (R186). -/
def execIncSp (s : State) : StepOutcome := raiseInvalidTarget s

/-- !DEC SP (R187). -/
def execDecSp (s : State) : StepOutcome := raiseInvalidTarget s

/-- !INC A (R188). -/
def execIncA (s : State) : StepOutcome := raiseInvalidTarget s

/-- !DEC A (R189). -/
def execDecA (s : State) : StepOutcome := raiseInvalidTarget s

/-- !LD A,d8 (R190). -/
def execLdAD8 (s : State) : StepOutcome := raiseInvalidTarget s

end Sys2Proof.Machine
end

