-- ==== Sys2Proof/Machine/Flags.lean ====
section
/-! DEFINITION. Every flag computation of the core (10_state.md R40). A flag that a definition does not
set is unchanged (R39). -/

namespace Sys2Proof.Machine

/-- The flags INC r writes, from the old byte and the new decimal value (42_inc_dec.md R158):
`fZ <- (n = 0); fN <- 0; fH <- (old[3:0] = 9)`. -/
def State.setIncFlags (s : State) (old : Byte) (n : Int) : State :=
  { s with fZ := decide (n = 0), fN := false, fH := decide (lowNibble old = 9) }

/-- The flags DEC r writes, from the old byte and the new decimal value (42_inc_dec.md R165):
`fZ <- (n = 0); fN <- 1; fH <- (old[3:0] = 0)`. -/
def State.setDecFlags (s : State) (old : Byte) (n : Int) : State :=
  { s with fZ := decide (n = 0), fN := true, fH := decide (lowNibble old = 0) }

/-- The flag RLCA and RRCA write, with the bit shifted out (43_rotate_nop_unimpl.md R181, R182). -/
def State.setCarry (s : State) (out : Bool) : State := { s with fC := out }

end Sys2Proof.Machine
end

