-- ==== Sys2Proof/Machine/IncDec.lean ====
section
/-! DEFINITION. The increment and decrement instructions (42_inc_dec.md): pairs in 16-bit binary
without flags, half-registers in BCD with flags. -/

namespace Sys2Proof.Machine

/-- Family INC rr (42_inc_dec.md R150): `x[rr] <- x[rr] +16 1`, 8 cycles. -/
def incrementPair (rr : Pair) (s : State) : StepOutcome :=
  .next ((s.setWide rr (s.wide rr + 1)).retire 0 8)

/-- Family DEC rr (42_inc_dec.md R154): `x[rr] <- x[rr] -16 1`, 8 cycles. -/
def decrementPair (rr : Pair) (s : State) : StepOutcome :=
  .next ((s.setWide rr (s.wide rr - 1)).retire 0 8)

/-- The end of INC r, given the byte it read and the sum (42_inc_dec.md R158): EncodingError before any
write when the sum exceeds 99, else the BCD write, the flags and 4 cycles. -/
def writeIncremented (r : Half) (old : Byte) (n : Int) (s : State) : StepOutcome :=
  match s.setHalfBcd r n with
  | .error e => raiseError e s
  | .ok t => .next ((t.setIncFlags old n).retire 0 4)

/-- Family INC r (42_inc_dec.md R158): `old <- x[r]; n <- bcd_to_decimal(old) + 1`, an integer. -/
def incrementHalf (r : Half) (s : State) : StepOutcome :=
  writeIncremented r (s.half r) (bcdToDecimal (s.half r) + 1) s

/-- The end of DEC r, given the byte it read and the difference (42_inc_dec.md R165): EncodingError
before any write when the difference is -1 or exceeds 99, else the BCD write, the flags and 4 cycles. -/
def writeDecremented (r : Half) (old : Byte) (n : Int) (s : State) : StepOutcome :=
  match s.setHalfBcd r n with
  | .error e => raiseError e s
  | .ok t => .next ((t.setDecFlags old n).retire 0 4)

/-- Family DEC r (42_inc_dec.md R165): `old <- x[r]; n <- bcd_to_decimal(old) - 1`, an integer. -/
def decrementHalf (r : Half) (s : State) : StepOutcome :=
  writeDecremented r (s.half r) (bcdToDecimal (s.half r) - 1) s

/-- INC BC (R151). -/
def execIncBc (s : State) : StepOutcome := incrementPair .bc s

/-- INC DE (R152). -/
def execIncDe (s : State) : StepOutcome := incrementPair .de s

/-- INC HL (R153). -/
def execIncHl (s : State) : StepOutcome := incrementPair .hl s

/-- DEC BC (R155). -/
def execDecBc (s : State) : StepOutcome := decrementPair .bc s

/-- DEC DE (R156). -/
def execDecDe (s : State) : StepOutcome := decrementPair .de s

/-- DEC HL (R157). -/
def execDecHl (s : State) : StepOutcome := decrementPair .hl s

/-- INC B (R159). -/
def execIncB (s : State) : StepOutcome := incrementHalf .b s

/-- INC C (R160). -/
def execIncC (s : State) : StepOutcome := incrementHalf .c s

/-- INC D (R161). -/
def execIncD (s : State) : StepOutcome := incrementHalf .d s

/-- INC E (R162). -/
def execIncE (s : State) : StepOutcome := incrementHalf .e s

/-- INC H (R163). -/
def execIncH (s : State) : StepOutcome := incrementHalf .h s

/-- INC L (R164). -/
def execIncL (s : State) : StepOutcome := incrementHalf .l s

/-- DEC B (R166). -/
def execDecB (s : State) : StepOutcome := decrementHalf .b s

/-- DEC C (R167). -/
def execDecC (s : State) : StepOutcome := decrementHalf .c s

/-- DEC D (R168). -/
def execDecD (s : State) : StepOutcome := decrementHalf .d s

/-- DEC E (R169). -/
def execDecE (s : State) : StepOutcome := decrementHalf .e s

/-- DEC H (R170). -/
def execDecH (s : State) : StepOutcome := decrementHalf .h s

/-- DEC L (R171). -/
def execDecL (s : State) : StepOutcome := decrementHalf .l s

end Sys2Proof.Machine
end

