-- ==== Sys2Proof/Machine/LoadStore.lean ====
section
/-! DEFINITION. The load and store instructions (41_loads_stores.md). A meaning is the Execute phase: it
is given the state Fetch left, and the operand the instruction's own bytes hold. -/

namespace Sys2Proof.Machine

/-- Family LD rr,d16 (41_loads_stores.md R130): the wide write of the immediate, `pc <- pc +16 2`,
12 cycles. -/
def loadPairImmediate (rr : Pair) (d16 : Word) (s : State) : StepOutcome :=
  .next ((s.setWide rr d16).retire 2 12)

/-- Family LD (rr),A (41_loads_stores.md R134): `MemWrite(x[rr], 1, x[A])`, 8 cycles. -/
def storeAccumulator (rr : Pair) (s : State) : StepOutcome :=
  .next ((s.memWrite (s.wide rr) s.a).retire 0 8)

/-- Family LD r,d8 (41_loads_stores.md R138): the raw half write of the immediate,
`pc <- pc +16 1`, 8 cycles. -/
def loadHalfImmediate (r : Half) (d8 : Byte) (s : State) : StepOutcome :=
  .next ((s.setHalf r d8).retire 1 8)

/-- LD BC,d16 (R131). -/
def execLdBcD16 (d16 : Word) (s : State) : StepOutcome := loadPairImmediate .bc d16 s

/-- LD DE,d16 (R132). -/
def execLdDeD16 (d16 : Word) (s : State) : StepOutcome := loadPairImmediate .de d16 s

/-- LD HL,d16 (R133). -/
def execLdHlD16 (d16 : Word) (s : State) : StepOutcome := loadPairImmediate .hl d16 s

/-- LD (BC),A (R135). -/
def execLdAtBcA (s : State) : StepOutcome := storeAccumulator .bc s

/-- LD (DE),A (R136). -/
def execLdAtDeA (s : State) : StepOutcome := storeAccumulator .de s

/-- LD (HL),A (R137). -/
def execLdAtHlA (s : State) : StepOutcome := storeAccumulator .hl s

/-- LD B,d8 (R139). -/
def execLdBD8 (d8 : Byte) (s : State) : StepOutcome := loadHalfImmediate .b d8 s

/-- LD C,d8 (R140). -/
def execLdCD8 (d8 : Byte) (s : State) : StepOutcome := loadHalfImmediate .c d8 s

/-- LD D,d8 (R141). -/
def execLdDD8 (d8 : Byte) (s : State) : StepOutcome := loadHalfImmediate .d d8 s

/-- LD E,d8 (R142). -/
def execLdED8 (d8 : Byte) (s : State) : StepOutcome := loadHalfImmediate .e d8 s

/-- LD H,d8 (R143). -/
def execLdHD8 (d8 : Byte) (s : State) : StepOutcome := loadHalfImmediate .h d8 s

/-- LD L,d8 (R144). -/
def execLdLD8 (d8 : Byte) (s : State) : StepOutcome := loadHalfImmediate .l d8 s

/-- LD (a16),SP (R145): `MemWrite(a, 1, x[SP][7:0]); MemWrite(a +16 1, 1, x[SP][15:8])`,
`pc <- pc +16 2`, 20 cycles. -/
def execLdAtA16Sp (a16 : Word) (s : State) : StepOutcome :=
  .next ((s.memWrite16 a16 s.sp).retire 2 20)

end Sys2Proof.Machine
end

