-- ==== Sys2Proof/Machine/NoOp.lean ====
section
/-! DEFINITION. NOP and the handler of every unimplemented opcode (43_rotate_nop_unimpl.md sections 1
and 3). -/

namespace Sys2Proof.Machine

/-- NOP (R180): 4 cycles. -/
def execNop (s : State) : StepOutcome := .next (s.retire 0 4)

/-- UNIMPL (R183): "a no-op costing 4 cycles with no further PC advance", whichever of the 216 opcode
bytes it is; `IR` already shows the byte. -/
def execUnimpl (_opcode : Byte) (s : State) : StepOutcome := .next (s.retire 0 4)

end Sys2Proof.Machine
end

