-- ==== Sys2Proof/Machine/Rotate.lean ====
section
/-! DEFINITION. The rotates of the accumulator (43_rotate_nop_unimpl.md section 2). -/

namespace Sys2Proof.Machine

/-- `{old[6:0], old[7]}` (R181). -/
def rotateLeftByte (old : Byte) : Byte := old.extractLsb' 0 7 ++ old.extractLsb' 7 1

/-- `{old[0], old[7:1]}` (R182). -/
def rotateRightByte (old : Byte) : Byte := old.extractLsb' 0 1 ++ old.extractLsb' 1 7

/-- RLCA (R181): `fC` gets the old bit 7; `fZ`, `fN`, `fH` stay; 4 cycles. -/
def execRlca (s : State) : StepOutcome :=
  .next (((s.setA (rotateLeftByte s.a)).setCarry (s.a.getLsbD 7)).retire 0 4)

/-- RRCA (R182): `fC` gets the old bit 0; `fZ`, `fN`, `fH` stay; 4 cycles. -/
def execRrca (s : State) : StepOutcome :=
  .next (((s.setA (rotateRightByte s.a)).setCarry (s.a.getLsbD 0)).retire 0 4)

end Sys2Proof.Machine
end

