-- ==== Sys2Proof/Machine/Step.lean ====
section
/-! DEFINITION. One step (40_engine_step.md R110), and how the host's reading of an instruction word
is placed where a step fetches it. -/

namespace Sys2Proof.Machine

/-- One step: Fetch, Decode, Execute (40_engine_step.md R110 to R113). -/
def step (s : State) : Host.Outcome State Fault Refusal := exec s.fetch.fetchedInstr s.fetch

/-- `s` with an instruction word of the opcode table laid at `pc`, the bits above `nbits` zero up to
the three bytes of the longest instruction: what a LOAD by the host would leave (log 4). -/
def State.withFetchWord (s : State) (nbits w : Nat) : State := s.layBytes s.pc (tableBytes nbits w)

end Sys2Proof.Machine
end

