-- ==== Sys2Proof/Machine/Transact.lean ====
section
/-! DEFINITION. The host transactions (70_reset_and_hazards.md R235 to R242). Each is atomic and
happens between steps (R242), in any state, after an error too. -/

namespace Sys2Proof.Machine

/-- The 8-bit registers the host may read and write (R241). -/
inductive ByteReg where
  | a
  | half (r : Half)
deriving DecidableEq, Repr

/-- The 16-bit registers the host may read and write, besides the pairs (R241). -/
inductive WordReg where
  | sp | pc | ir | mar | mdr
deriving DecidableEq, Repr

/-- The four flags (10_state.md R38). -/
inductive Flag where
  | zero | subtraction | halfCarry | carry
deriving DecidableEq, Repr

/-- The transactions of R235 with what the host supplies. POKE and PEEK are spelt out as R241 lists
them; there is no poke of `cycles` (R241). -/
inductive Transaction where
  /-- RESET, `new()` (R230, R237). -/
  | reset
  /-- STEP, `cycle()` (R238). -/
  | step
  /-- QUERY, `read_memory(mode)` (R239). -/
  | query (mode : AddressingMode)
  /-- LOAD, `write_bytes(values, start_index)` (R240). -/
  | load (values : List Byte) (start : Nat)
  /-- `read(addr)` (R241 a). -/
  | readCell (addr : Word)
  /-- `write(addr, value)` (R241 a). -/
  | writeCell (addr : Word) (value : Byte)
  /-- `set_wide(v)` on a pair (R241 b). -/
  | setWide (rr : Pair) (v : Word)
  /-- `set_high_bcd(d)` on a pair (R241 b). -/
  | setHighBcd (rr : Pair) (d : Int)
  /-- `set_low_bcd(d)` on a pair (R241 b). -/
  | setLowBcd (rr : Pair) (d : Int)
  /-- `get_high()` of a pair (R241 b). -/
  | getHigh (rr : Pair)
  /-- `get_low()` of a pair (R241 b). -/
  | getLow (rr : Pair)
  /-- The wide read of a pair (R241 b). -/
  | getWide (rr : Pair)
  /-- `to_int()` of a pair (R241 b). -/
  | toInt (rr : Pair)
  /-- Read an 8-bit register (R241 c). -/
  | peekByte (r : ByteReg)
  /-- Write an 8-bit register (R241 c). -/
  | pokeByte (r : ByteReg) (v : Byte)
  /-- Read a 16-bit register (R241 c). -/
  | peekWord (r : WordReg)
  /-- Write a 16-bit register (R241 c). -/
  | pokeWord (r : WordReg) (v : Word)
  /-- Read a flag (R241 c). -/
  | peekFlag (f : Flag)
  /-- Write a flag (R241 c). -/
  | pokeFlag (f : Flag) (v : Bool)
  /-- Read `cycles`, which the host "may read only" (R241 c). -/
  | peekCycles
deriving DecidableEq, Repr

/-- What the host gets back (R235). -/
inductive Reply where
  | ok
  | err (error : EngineError)
  | bit (v : Bool)
  | byte (v : Byte)
  | word (v : Word)
  | number (v : Nat)
  /-- The model gave the stepped instruction no meaning; never answered, since no step refuses. -/
  | refused (r : Refusal)
deriving DecidableEq, Repr

/-- The value of an 8-bit register. -/
def State.byteReg (s : State) : ByteReg → Byte
  | .a => s.a
  | .half r => s.half r

/-- Write an 8-bit register and nothing else. -/
def State.setByteReg (s : State) (r : ByteReg) (v : Byte) : State :=
  match r with
  | .a => s.setA v
  | .half r => s.setHalf r v

/-- The value of a 16-bit register. -/
def State.wordReg (s : State) : WordReg → Word
  | .sp => s.sp
  | .pc => s.pc
  | .ir => s.ir
  | .mar => s.mar
  | .mdr => s.mdr

/-- Write a 16-bit register and nothing else. -/
def State.setWordReg (s : State) (r : WordReg) (v : Word) : State :=
  match r with
  | .sp => { s with sp := v }
  | .pc => { s with pc := v }
  | .ir => { s with ir := v }
  | .mar => { s with mar := v }
  | .mdr => { s with mdr := v }

/-- The value of a flag. -/
def State.flag (s : State) : Flag → Bool
  | .zero => s.fZ
  | .subtraction => s.fN
  | .halfCarry => s.fH
  | .carry => s.fC

/-- Write a flag and nothing else. -/
def State.setFlag (s : State) (f : Flag) (v : Bool) : State :=
  match f with
  | .zero => { s with fZ := v }
  | .subtraction => { s with fN := v }
  | .halfCarry => { s with fH := v }
  | .carry => { s with fC := v }

/-- What STEP hands to the host, and the state it leaves: after an error, the state of
60_exceptions.md R203, from which "the host may issue another step" (R209). -/
def stepTransaction (s : State) : Reply × State :=
  match step s with
  | .next t => (.ok, t)
  | .fault (.raised error after) => (.err error, after)
  | .refused r => (.refused r, s)

/-- A write that can fail with EncodingError and then writes nothing (R241 b). -/
def bcdTransaction (s : State) (r : Half) (d : Int) : Reply × State :=
  match s.setHalfBcd r d with
  | .error e => (.err e, s)
  | .ok t => (.ok, t)

/-- LOAD (R240): all of the bytes, or BoundsError and nothing. -/
def loadTransaction (s : State) (values : List Byte) (start : Nat) : Reply × State :=
  match Memory.writeBytes s.mem values start with
  | .error e => (.err e, s)
  | .ok m => (.ok, { s with mem := m })

/-- One host transaction: what the host gets back and the state after it (R235). RESET keeps the
model's own counter of free values, so that no two draws are the same one (log 14). -/
def transact (x : Transaction) (s : State) : Reply × State :=
  match x with
  | .reset => (.ok, { State.reset with draws := s.draws })
  | .step => stepTransaction s
  | .query mode => (.word (s.resolve mode), s)
  | .load values start => loadTransaction s values start
  | .readCell addr => (.byte (s.memRead addr), s)
  | .writeCell addr value => (.ok, s.memWrite addr value)
  | .setWide rr v => (.ok, s.setWide rr v)
  | .setHighBcd rr d => bcdTransaction s (highHalf rr) d
  | .setLowBcd rr d => bcdTransaction s (lowHalf rr) d
  | .getHigh rr => (.byte (s.pair rr).high, s)
  | .getLow rr => (.byte (s.pair rr).low, s)
  | .getWide rr => (.word (s.wide rr), s)
  | .toInt rr => (.number (s.pair rr).toInt, s)
  | .peekByte r => (.byte (s.byteReg r), s)
  | .pokeByte r v => (.ok, s.setByteReg r v)
  | .peekWord r => (.word (s.wordReg r), s)
  | .pokeWord r v => (.ok, s.setWordReg r v)
  | .peekFlag f => (.bit (s.flag f), s)
  | .pokeFlag f v => (.ok, s.setFlag f v)
  | .peekCycles => (.number s.cycles, s)

/-- A sequence of transactions, one at a time in order (R242). -/
def transactAll : List Transaction → State → State
  | [], s => s
  | x :: xs, s => transactAll xs (transact x s).2

end Sys2Proof.Machine
end

