-- ==== Sys2Proof/Machine/CycleWidth.lean ====
section
/-! DEFINITION. The parameter CYCLES_WIDTH as an argument of the model (00_scope.md R7,
92_eei_decisions.md D6, 93_implementation_defined.md U6), default unbounded: the same machine over a
counter of that width. -/

namespace Sys2Proof.Machine

/-- What a counter of the given width holds after counting to `n`. U6: "with a finite width the
monotonic law would fail at the wrap". DEDUCED, log 17. -/
def wrapCount (width : CycleWidth) (n : Nat) : Nat :=
  match width with
  | .unbounded => n
  | .bits w => n % 2 ^ w

/-- `s` as a realisation with a counter of the given width holds it. -/
def State.wrapCycles (s : State) (width : CycleWidth) : State :=
  { s with cycles := wrapCount width s.cycles }

/-- What a step answers, as a realisation with a counter of the given width holds it. -/
def wrapOutcome (width : CycleWidth) : StepOutcome → StepOutcome
  | .next t => .next (t.wrapCycles width)
  | .fault (.raised error after) => .fault (.raised error (after.wrapCycles width))
  | .refused r => .refused r

/-- One step of the core with a counter of the given width. The cost is added last and nothing else of
a step depends on the counter (40_engine_step.md R115, 70_reset_and_hazards.md R234). -/
def stepWith (s : State) (width : CycleWidth := .unbounded) : StepOutcome := wrapOutcome width (step s)

/-- One host transaction with a core whose counter has the given width, from a state that such a core
can hold. -/
def transactWith (x : Transaction) (s : State) (width : CycleWidth := .unbounded) : Reply × State :=
  ((transact x s).1, (transact x s).2.wrapCycles width)

end Sys2Proof.Machine
end

