-- ==== Sys2Proof/Safety.lean ====
section
/-! DEFINITION. What a safe run is, in the terms claims use, and the invariant of the machine. -/

namespace Sys2Proof.Machine

/-- A step completes: its outcome is `Ok` (40_engine_step.md R117). -/
def State.completes (s : State) : Prop := ∃ t, step s = .next t

/-- The outcome of a step as the host sees it is `Err(error)`, and the core is left in `after`
(40_engine_step.md R117, 60_exceptions.md R203). -/
def State.raises (s : State) (error : EngineError) (after : State) : Prop :=
  step s = .fault (.raised error after)

/-- `t` is reached from `s` by completed steps with no host transaction between them, the usual
assumption of a claim (70_reset_and_hazards.md R242), log 16. -/
inductive Reaches : State → State → Prop where
  | refl (s : State) : Reaches s s
  | tail {s t u : State} : Reaches s t → step t = .next u → Reaches s u

/-- The end of a run, a parameter of each claim (70_reset_and_hazards.md R243, D11): a number of
steps, or the first time `pc` equals an address between steps. -/
inductive EndOfRun where
  | afterSteps (n : Nat)
  | atPc (addr : Word)
deriving DecidableEq, Repr

/-- The run from `s` ends in `t` after `n` completed steps, with a cycle counter of the given width
(00_scope.md R7). -/
def runsFor (n : Nat) (s t : State) (width : CycleWidth := .unbounded) : Prop :=
  match n with
  | 0 => s = t
  | n + 1 => ∃ u, stepWith s width = .next u ∧ runsFor n u t width

/-- The run from `s` ends in `t`, by the given end. At an address it is the FIRST time `pc` has that
value between steps. The two OPEN parameters, END_OF_RUN and CYCLES_WIDTH, are its arguments. -/
def endsRun (e : EndOfRun) (s t : State) (width : CycleWidth := .unbounded) : Prop :=
  match e with
  | .afterSteps n => runsFor n s t width
  | .atPc addr =>
    ∃ n, runsFor n s t width ∧ t.pc = addr ∧ ∀ k u, k < n → runsFor k s u width → u.pc ≠ addr

/-- The next step executes one of the 34 defined instructions: the premise D14 and 60_exceptions.md
R218 offer to a claim that wants to leave unimplemented opcodes out. -/
def State.onDefinedOpcode (s : State) : Prop := s.memRead s.pc ∈ definedOpcodes

/-- The invariant every step keeps: memory is canonical, and the upper byte of `IR` is 0
(10_state.md R31: "after any step `IR[15:8] = 0`"). -/
def State.Inv (s : State) : Prop := Memory.wf s.mem = true ∧ highByte s.ir = 0

end Sys2Proof.Machine
end

