-- ==== Sys2Proof/Certificates/Slice0/Obligations.lean ====
section
/-! DEFINITION. The statements for the provers. Each docstring names the rule of spec/ it formalises.
An instruction's meaning is given the state Fetch left, so "unchanged" in a statement about `exec`
compares with that state; `MAR` and `MDR` are unspecified after every instruction (40_engine_step.md
R121), so no statement about an instruction says what they hold. -/

namespace Sys2Proof.Claims

open Sys2Proof Sys2Proof.Machine

/-! ### The families, by register -/

/-- LD rr,d16: `ldBcD16`, `ldDeD16`, `ldHlD16`. -/
def ldPairD16 (rr : Pair) (d16 : Word) : Instr :=
  match rr with
  | .bc => .ldBcD16 d16
  | .de => .ldDeD16 d16
  | .hl => .ldHlD16 d16

/-- LD (rr),A: `ldAtBcA`, `ldAtDeA`, `ldAtHlA`. -/
def ldAtPairA : Pair → Instr
  | .bc => .ldAtBcA
  | .de => .ldAtDeA
  | .hl => .ldAtHlA

/-- LD r,d8: `ldBD8`, `ldCD8`, `ldDD8`, `ldED8`, `ldHD8`, `ldLD8`. -/
def ldHalfD8 (r : Half) (d8 : Byte) : Instr :=
  match r with
  | .b => .ldBD8 d8
  | .c => .ldCD8 d8
  | .d => .ldDD8 d8
  | .e => .ldED8 d8
  | .h => .ldHD8 d8
  | .l => .ldLD8 d8

/-- INC rr: `incBc`, `incDe`, `incHl`. -/
def incPair : Pair → Instr
  | .bc => .incBc
  | .de => .incDe
  | .hl => .incHl

/-- DEC rr: `decBc`, `decDe`, `decHl`. -/
def decPair : Pair → Instr
  | .bc => .decBc
  | .de => .decDe
  | .hl => .decHl

/-- INC r: `incB`, `incC`, `incD`, `incE`, `incH`, `incL`. -/
def incHalf : Half → Instr
  | .b => .incB
  | .c => .incC
  | .d => .incD
  | .e => .incE
  | .h => .incH
  | .l => .incL

/-- DEC r: `decB`, `decC`, `decD`, `decE`, `decH`, `decL`. -/
def decHalf : Half → Instr
  | .b => .decB
  | .c => .decC
  | .d => .decD
  | .e => .decE
  | .h => .decH
  | .l => .decL

/-- The six faulting slots (30_encoding.md R99). -/
def faultingSlots : List Instr := [.ldSpD16, .incSp, .decSp, .incA, .decA, .ldAD8]

/-! ### What stays -/

/-- The handler's own advance of `pc` and charge of `cycles` (40_engine_step.md R113). -/
def Advances (s t : State) (operandBytes cost : Nat) : Prop :=
  t.pc = s.pc + BitVec.ofNat 16 operandBytes ∧ t.cycles = s.cycles + cost

/-- The four flags stay. -/
def KeepsFlags (s t : State) : Prop := t.fZ = s.fZ ∧ t.fN = s.fN ∧ t.fH = s.fH ∧ t.fC = s.fC

/-- Every half-register outside a list stays. -/
def KeepsHalvesBut (rs : List Half) (s t : State) : Prop := ∀ r, r ∉ rs → t.half r = s.half r

/-- `SP` and `IR` stay. -/
def KeepsSpecials (s t : State) : Prop := t.sp = s.sp ∧ t.ir = s.ir

/-- Every cell outside a list of addresses reads as before. -/
def KeepsCellsBut (xs : List Word) (s t : State) : Prop := ∀ x, x ∉ xs → t.memRead x = s.memRead x

/-- Everything but `MAR` and `MDR`, which are unspecified, is as in `s` (60_exceptions.md R203, on the
state Fetch left). -/
def LeavesAll (s t : State) : Prop :=
  t.a = s.a ∧ t.pc = s.pc ∧ t.cycles = s.cycles ∧ KeepsHalvesBut [] s t ∧ KeepsFlags s t ∧
    KeepsSpecials s t ∧ KeepsCellsBut [] s t

/-! ### The spec's tables, for the statements about the whole machine -/

/-- The fixed cost of an opcode (30_encoding.md R96 and R100, 70_reset_and_hazards.md R234). -/
def cycleCost (opcode : Byte) : Nat :=
  if opcode ∈ ([0x01, 0x11, 0x21] : List Byte) then 12
  else if opcode ∈ ([0x02, 0x12, 0x77] : List Byte) then 8
  else if opcode ∈ ([0x03, 0x13, 0x23, 0x0B, 0x1B, 0x2B] : List Byte) then 8
  else if opcode ∈ ([0x06, 0x0E, 0x16, 0x1E, 0x26, 0x2E] : List Byte) then 8
  else if opcode = 0x08 then 20
  else 4

/-- The opcodes of INC r (40_engine_step.md R122). -/
def incHalfOpcodes : List Byte := [0x04, 0x0C, 0x14, 0x1C, 0x24, 0x2C]

/-- The opcodes of DEC r (40_engine_step.md R122). -/
def decHalfOpcodes : List Byte := [0x05, 0x0D, 0x15, 0x1D, 0x25, 0x2D]

/-- The half-registers of a pair. -/
def halvesOf (rr : Pair) : List Half := [highHalf rr, lowHalf rr]

/-- The half-registers an instruction writes, the column "target pair or half" of 10_state.md R29. -/
def writtenHalves : Instr → List Half
  | .ldBcD16 _ | .incBc | .decBc => halvesOf .bc
  | .ldDeD16 _ | .incDe | .decDe => halvesOf .de
  | .ldHlD16 _ | .incHl | .decHl => halvesOf .hl
  | .incB | .decB | .ldBD8 _ => [.b]
  | .incC | .decC | .ldCD8 _ => [.c]
  | .incD | .decD | .ldDD8 _ => [.d]
  | .incE | .decE | .ldED8 _ => [.e]
  | .incH | .decH | .ldHD8 _ => [.h]
  | .incL | .decL | .ldLD8 _ => [.l]
  | .nop | .rlca | .rrca | .ldAtBcA | .ldAtDeA | .ldAtHlA | .ldAtA16Sp _ => []
  | .ldSpD16 | .incSp | .decSp | .incA | .decA | .ldAD8 | .unimpl _ => []

/-- The cells an instruction stores to, the column "MEM" of 10_state.md R29. -/
def storedCells (i : Instr) (s : State) : List Word :=
  match i with
  | .ldAtBcA => [s.wide .bc]
  | .ldAtDeA => [s.wide .de]
  | .ldAtHlA => [s.wide .hl]
  | .ldAtA16Sp a16 => [a16, a16 + 1]
  | _ => []

/-- The instructions that write `fZ`, `fN` and `fH` (10_state.md R40). -/
def writesDigitFlags (i : Instr) : Prop := ∃ r, i = incHalf r ∨ i = decHalf r

/-- The instructions that write `A` and `fC` (10_state.md R21, R40). -/
def isRotate (i : Instr) : Prop := i = .rlca ∨ i = .rrca

/-- A poke of an 8-bit register writes it and nothing else, register by register. -/
def PokesOneByteRegister (s : State) : Prop :=
  ∀ v, transact (.pokeByte .a v) s = (.ok, { s with a := v }) ∧
    transact (.pokeByte (.half .b) v) s = (.ok, { s with bc := ⟨v, s.bc.low⟩ }) ∧
    transact (.pokeByte (.half .c) v) s = (.ok, { s with bc := ⟨s.bc.high, v⟩ }) ∧
    transact (.pokeByte (.half .d) v) s = (.ok, { s with de := ⟨v, s.de.low⟩ }) ∧
    transact (.pokeByte (.half .e) v) s = (.ok, { s with de := ⟨s.de.high, v⟩ }) ∧
    transact (.pokeByte (.half .h) v) s = (.ok, { s with hl := ⟨v, s.hl.low⟩ }) ∧
    transact (.pokeByte (.half .l) v) s = (.ok, { s with hl := ⟨s.hl.high, v⟩ })

/-- A poke of a 16-bit register writes it and nothing else, register by register. -/
def PokesOneWordRegister (s : State) : Prop :=
  ∀ v, transact (.pokeWord .sp v) s = (.ok, { s with sp := v }) ∧
    transact (.pokeWord .pc v) s = (.ok, { s with pc := v }) ∧
    transact (.pokeWord .ir v) s = (.ok, { s with ir := v }) ∧
    transact (.pokeWord .mar v) s = (.ok, { s with mar := v }) ∧
    transact (.pokeWord .mdr v) s = (.ok, { s with mdr := v })

/-- A poke of a flag writes it and nothing else, flag by flag. -/
def PokesOneFlag (s : State) : Prop :=
  ∀ v, transact (.pokeFlag .zero v) s = (.ok, { s with fZ := v }) ∧
    transact (.pokeFlag .subtraction v) s = (.ok, { s with fN := v }) ∧
    transact (.pokeFlag .halfCarry v) s = (.ok, { s with fH := v }) ∧
    transact (.pokeFlag .carry v) s = (.ok, { s with fC := v })

/-- `s` with other flags. -/
def withFlags (s : State) (z n h c : Bool) : State := { s with fZ := z, fN := n, fH := h, fC := c }

end Sys2Proof.Claims

open Sys2Proof Sys2Proof.Machine Sys2Proof.Claims

/-! ### Memory -/

/-- 20_memory.md R63: a single-cell write sets that one cell and nothing else, at every address. -/
def Obligations.CellWriteSetsOneCell : Prop :=
  ∀ (s : State) (addr : Word) (v : Byte), Memory.wf s.mem = true →
    (s.memWrite addr v).memRead addr = v ∧
      (∀ x, x ≠ addr → (s.memWrite addr v).memRead x = s.memRead x) ∧
      { s.memWrite addr v with mem := s.mem } = s

/-- 20_memory.md R65: a 16-bit write puts the less significant byte at the lower address and the other
at `addr +16 1`, modulo 65536 (00_scope.md R8; the spec's decision D5), and nothing else changes. -/
def Obligations.WordWriteIsLittleEndian : Prop :=
  ∀ (s : State) (addr v : Word), Memory.wf s.mem = true →
    ((s.memWrite16 addr v).memRead addr).toNat = v.toNat % 256 ∧
      ((s.memWrite16 addr v).memRead (addr + 1)).toNat = v.toNat / 256 ∧
      (∀ x, x ≠ addr → x ≠ addr + 1 → (s.memWrite16 addr v).memRead x = s.memRead x) ∧
      { s.memWrite16 addr v with mem := s.mem } = s

/-- 20_memory.md R64 after R65: reading back a 16-bit write gives the word, also across 0xFFFF (the
spec's decision D5). -/
def Obligations.WordReadAfterWordWrite : Prop :=
  ∀ (s : State) (addr v : Word), Memory.wf s.mem = true →
    (s.memWrite16 addr v).memRead16 addr = v

/-- The model's own form of memory (not a rule of the spec): two canonical memories that read alike at
all 65536 addresses are the same data. -/
def Obligations.CanonicalMemoryIsUnique : Prop :=
  ∀ m m' : Memory, m.wf = true → m'.wf = true →
    (∀ a : Word, Memory.read m a.toNat = Memory.read m' a.toNat) → m = m'

/-- 20_memory.md R80, the LOAD transaction: all of the run or, past 65536, BoundsError and nothing. -/
def Obligations.BulkLoadIsAllOrNothing : Prop :=
  ∀ (s : State) (values : List Byte) (start : Nat), Memory.wf s.mem = true →
    (65536 < start + values.length →
      transact (.load values start) s = (.err .boundsError, s)) ∧
    (start + values.length ≤ 65536 →
      ∃ t, transact (.load values start) s = (.ok, t) ∧ { t with mem := s.mem } = s ∧
        (∀ (i : Nat) (h : i < values.length), Memory.read t.mem (start + i) = values[i]) ∧
        ∀ x : Word, (x.toNat < start ∨ start + values.length ≤ x.toNat) → t.memRead x = s.memRead x)

/-! ### Register pairs and half-registers -/

/-- 10_state.md R24: after a wide write of `v` the halves are `v >> 8` and `v & 0xFF`, and putting the old
pair back restores the state. (That it writes that pair and nothing else: `PokeWritesOneRegister`.) -/
def Obligations.WideWriteSetsBothHalves : Prop :=
  ∀ (s : State) (rr : Pair) (v : Word),
    ((s.setWide rr v).half (highHalf rr)).toNat = v.toNat / 256 ∧
      ((s.setWide rr v).half (lowHalf rr)).toNat = v.toNat % 256 ∧
      (s.setWide rr v).setPair rr (s.pair rr) = s

/-- 10_state.md section 2 (R26, which the spec marks as derived): the wide read of a pair is
`{high, low}`, whatever wrote the halves; after a wide write it is the value written. -/
def Obligations.WideReadIsHighThenLow : Prop :=
  ∀ (s : State) (rr : Pair),
    (s.wide rr).toNat = (s.half (highHalf rr)).toNat * 256 + (s.half (lowHalf rr)).toNat ∧
      (∀ v, (s.setWide rr v).wide rr = v) ∧
      ∀ hi lo, ((s.setHalf (highHalf rr) hi).setHalf (lowHalf rr) lo).wide rr = hi ++ lo

/-- 10_state.md R25: a raw half write stores the byte unchanged, leaves the other half of the pair
and every other half unchanged, and writing the old byte back restores the state. (That it writes that
half and nothing else: `PokeWritesOneRegister`.) -/
def Obligations.HalfWriteIsRawAndAlone : Prop :=
  ∀ (s : State) (r : Half) (v : Byte),
    (s.setHalf r v).half r = v ∧ (∀ q, q ≠ r → (s.setHalf r v).half q = s.half q) ∧
      (s.setHalf r v).setHalf r (s.half r) = s

/-! ### The BCD unit -/

/-- 10_state.md R33: `bcd_to_decimal(b) = b[7:4]*10 + b[3:0]` for every byte, from 0 to 165. -/
def Obligations.BcdToDecimalIsTotal : Prop :=
  ∀ b : Byte, bcdToDecimal b = (b >>> 4).toNat * 10 + (b &&& 0x0F#8).toNat ∧ bcdToDecimal b ≤ 165

/-- 10_state.md section 4 (the source's round-trip law, and its converse, which the spec marks as
derived): the two conversions are inverse on 0 to 99 and on the valid BCD bytes. -/
def Obligations.BcdRoundTrip : Prop :=
  (∀ d : Int, 0 ≤ d → d ≤ 99 → ∃ b, decimalToBcd d = some b ∧ (bcdToDecimal b : Int) = d) ∧
    ∀ b : Byte, (b >>> 4).toNat ≤ 9 → (b &&& 0x0F#8).toNat ≤ 9 → decimalToBcd (bcdToDecimal b) = some b

/-- 10_state.md R35, at the host's BCD write ports: EncodingError and no write below 0 or above 99, else
the two digits packed into the named half, and nothing else written. -/
def Obligations.BcdWriteFailsOutOfRange : Prop :=
  ∀ (s : State) (rr : Pair) (d : Int),
    ((d < 0 ∨ 99 < d) →
      transact (.setHighBcd rr d) s = (.err (.encodingError d), s) ∧
        transact (.setLowBcd rr d) s = (.err (.encodingError d), s)) ∧
    ((0 ≤ d ∧ d ≤ 99) →
      ∃ b : Byte, (b >>> 4).toNat = d.toNat / 10 ∧ (b &&& 0x0F#8).toNat = d.toNat % 10 ∧
        transact (.setHighBcd rr d) s = (.ok, s.setPair rr ⟨b, (s.pair rr).low⟩) ∧
        transact (.setLowBcd rr d) s = (.ok, s.setPair rr ⟨(s.pair rr).high, b⟩))

/-- 10_state.md R36: `to_int()` of a pair is the formula for every pair of bytes, at most 16665, at most
9999 when both bytes are valid BCD, and the query changes nothing. -/
def Obligations.PairToIntFormula : Prop :=
  ∀ (s : State) (rr : Pair),
    transact (.toInt rr) s =
        (.number (bcdToDecimal (s.half (highHalf rr)) * 100 + bcdToDecimal (s.half (lowHalf rr))), s) ∧
      (s.pair rr).toInt ≤ 16665 ∧
      (highNibble (s.pair rr).high ≤ 9 → lowNibble (s.pair rr).high ≤ 9 →
        highNibble (s.pair rr).low ≤ 9 → lowNibble (s.pair rr).low ≤ 9 → (s.pair rr).toInt ≤ 9999)

/-! ### Fetch, decode, step -/

/-- 40_engine_step.md R111: Fetch loads `IR` with the zero-extended opcode byte, adds 1 to `pc` modulo
65536 (the spec's decision D5) and changes nothing else. -/
def Obligations.FetchLoadsOpcodeAndAdvances : Prop :=
  ∀ s : State, s.fetch.ir.toNat = (s.memRead s.pc).toNat ∧
    s.fetch.pc.toNat = (s.pc.toNat + 1) % 65536 ∧ { s.fetch with ir := s.ir, pc := s.pc } = s

/-- Words written out from 30_encoding.md R91 to R93 and R96, one and more of every family, decode to
what they stand for. All opcode bytes but 0x00 and 0x01 are the spec's decision D2 or D3. -/
def Obligations.WrittenOutWordsDecode : Prop :=
  decodeTableWord 8 0b00000000 = some .nop ∧
    decodeTableWord 24 0b101010111100110100000001 = some (.ldBcD16 0xABCD) ∧
    decodeTableWord 8 0b01110111 = some .ldAtHlA ∧
    decodeTableWord 16 0b0101101000011110 = some (.ldED8 0x5A) ∧
    decodeTableWord 24 0b110000010000000000001000 = some (.ldAtA16Sp 0xC100) ∧
    decodeTableWord 8 0b00010011 = some .incDe ∧
    decodeTableWord 8 0b00101011 = some .decHl ∧
    decodeTableWord 8 0b00001100 = some .incC ∧
    decodeTableWord 8 0b00100101 = some .decH ∧
    decodeTableWord 8 0b00000111 = some .rlca ∧
    decodeTableWord 8 0b00001111 = some .rrca ∧
    decodeTableWord 8 0b00111100 = some .incA ∧
    decodeTableWord 8 0b11010011 = some (.unimpl 0xD3)

/-- 40_engine_step.md section 1: when the bytes at `pc` decode to `i`, a step is Fetch and then `exec i`
on what Fetch left. Memory always holds three bytes at `pc` (addresses wrap, 30_encoding.md section 1). -/
def Obligations.StepRunsTheDecodedInstruction : Prop :=
  ∀ (s : State) (i : Instr) (rest : List Byte),
    decode [s.memRead s.pc, s.memRead (s.pc + 1), s.memRead (s.pc + 2)] = .ok (i, rest) →
      step s = exec i s.fetch

/-- 30_encoding.md R97 and R98: the immediate of the instruction that is run is what the resolver gives
on the state Fetch left: `d8` the byte after the opcode, `d16` and `a16` the little-endian word after
it. Stated for every opcode of the two formats that have an operand. -/
def Obligations.OperandsComeFromTheResolver : Prop :=
  ∀ s : State,
    (∀ r, s.opcode = (encode (ldHalfD8 r 0)).headD 0 →
      s.fetchedInstr = ldHalfD8 r (lowByte (s.resolve .immediateEight))) ∧
    (∀ rr, s.opcode = (encode (ldPairD16 rr 0)).headD 0 →
      s.fetchedInstr = ldPairD16 rr (s.resolve .immediateSixteen)) ∧
    (s.opcode = 0x08#8 → s.fetchedInstr = .ldAtA16Sp (s.resolve .immediateSixteen))

/-- 30_encoding.md sections 1 and 2: decoding the bytes of a well-formed instruction gives it back, with
every immediate at every value, and leaves the bytes after it. -/
def Obligations.DecodeOfEncodeGivesTheInstruction : Prop :=
  ∀ (i : Instr) (rest : List Byte), i.wellFormed = true → decode (encode i ++ rest) = .ok (i, rest)

/-- 30_encoding.md sections 1 and 2: what decodes is a well-formed instruction, and the bytes it was read
from are its encoding: no byte sequence is read as an instruction it does not spell. -/
def Obligations.DecodedBytesAreTheEncoding : Prop :=
  ∀ (bytes rest : List Byte) (i : Instr), decode bytes = .ok (i, rest) →
    i.wellFormed = true ∧ bytes = encode i ++ rest

/-- 30_encoding.md sections 2 and 4 (the bytes are the spec's decisions D2 and D3): the dispatch table has
exactly one entry per byte: 34 defined, 6 faulting, and UNIMPL for the other 216; the three kinds are
told apart by the lists, whatever the operand bytes. -/
def Obligations.DispatchTableIsAPartition : Prop :=
  definedOpcodes.length = 34 ∧ definedOpcodes.Nodup ∧ faultingOpcodes.length = 6 ∧
    faultingOpcodes.Nodup ∧ (∀ b ∈ definedOpcodes, b ∉ faultingOpcodes) ∧
    ∀ (b d8 : Byte) (d16 : Word),
      (dispatch b d8 d16 = .unimpl b ↔ b ∉ definedOpcodes ∧ b ∉ faultingOpcodes) ∧
        (dispatch b d8 d16 ∈ faultingSlots ↔ b ∈ faultingOpcodes)

/-- 30_encoding.md R90 and R102: an instruction is 1, 2 or 3 bytes long, its opcode byte alone tells how
many, and a decode takes exactly that many bytes. -/
def Obligations.OpcodeAloneTellsTheLength : Prop :=
  ∀ (opcode : Byte) (rest after : List Byte) (i : Instr), decode (opcode :: rest) = .ok (i, after) →
    after.length + opcodeLength opcode = rest.length + 1 ∧
      1 ≤ opcodeLength opcode ∧ opcodeLength opcode ≤ 3

/-! ### The resolver -/

/-- 20_memory.md R73, the source's law: with `lo` at `pc` and `hi` at `pc+1` the ImmediateSixteen mode
gives `(hi << 8) | lo`. -/
def Obligations.ImmediateSixteenIsLittleEndian : Prop :=
  ∀ (s : State) (lo hi : Byte), s.memRead s.pc = lo → s.memRead (s.pc + 1) = hi →
    (s.resolve .immediateSixteen).toNat = hi.toNat * 256 + lo.toNat

/-- 20_memory.md section 4: the other seven modes, with the wrap of the UnsignedEight address (the
spec's decision D5) and the sign extension of SignedEight (a derivation of the spec's). -/
def Obligations.ResolverModes : Prop :=
  ∀ s : State,
    s.resolve .implied = s.mdr ∧
    (s.resolve .immediateEight).toNat = (s.memRead s.pc).toNat ∧
    (s.resolve .unsignedEight).toNat =
      (Memory.read s.mem ((0xFF00 + s.pc.toNat) % 65536)).toNat ∧
    (∀ addr, (s.resolve (.addressSixteen addr)).toNat = (s.memRead addr).toNat) ∧
    (s.resolve .signedEight).toInt = (s.memRead s.pc).toInt ∧
    (∀ rr, (s.resolve (.registerPairDirect rr)).toNat = (s.memRead (s.wide rr)).toNat) ∧
    (∀ rr, (s.resolve (.registerDirect rr true)).toNat =
      (Memory.read s.mem (s.half (highHalf rr)).toNat).toNat) ∧
    ∀ rr, (s.resolve (.registerDirect rr false)).toNat =
      (Memory.read s.mem (s.half (lowHalf rr)).toNat).toNat

/-! ### Loads and stores -/

/-- 41_loads_stores.md R130, for `ldBcD16`, `ldDeD16`, `ldHlD16`: completes in every state; the pair
holds the immediate, `pc +16 2`, 12 cycles, no flag and nothing else written. -/
def Obligations.LoadPairImmediateCompletes : Prop :=
  ∀ (rr : Pair) (d16 : Word) (s : State), ∃ t, exec (ldPairD16 rr d16) s = .next t ∧
    t.wide rr = d16 ∧ Advances s t 2 12 ∧ t.a = s.a ∧ KeepsHalvesBut (halvesOf rr) s t ∧
    KeepsFlags s t ∧ KeepsSpecials s t ∧ KeepsCellsBut [] s t

/-- 41_loads_stores.md R134, for `ldAtBcA`, `ldAtDeA`, `ldAtHlA`: completes in every state; the cell at
the pair's wide value holds `A`, every other cell, register and flag stays, `pc` stays as Fetch left
it, 8 cycles; one byte long. -/
def Obligations.StoreAccumulatorCompletes : Prop :=
  ∀ (rr : Pair) (s : State), Memory.wf s.mem = true → (encode (ldAtPairA rr)).length = 1 ∧
    ∃ t, exec (ldAtPairA rr) s = .next t ∧
    t.memRead (s.wide rr) = s.a ∧ KeepsCellsBut [s.wide rr] s t ∧ Advances s t 0 8 ∧
    t.a = s.a ∧ KeepsHalvesBut [] s t ∧ KeepsFlags s t ∧ KeepsSpecials s t

/-- 41_loads_stores.md R138, for `ldBD8`, `ldCD8`, `ldDD8`, `ldED8`, `ldHD8`, `ldLD8`: completes in every
state; the half holds the raw byte, `pc +16 1`, 8 cycles, no flag and nothing else written. -/
def Obligations.LoadHalfImmediateCompletes : Prop :=
  ∀ (r : Half) (d8 : Byte) (s : State), ∃ t, exec (ldHalfD8 r d8) s = .next t ∧
    t.half r = d8 ∧ Advances s t 1 8 ∧ t.a = s.a ∧ KeepsHalvesBut [r] s t ∧
    KeepsFlags s t ∧ KeepsSpecials s t ∧ KeepsCellsBut [] s t

/-- 41_loads_stores.md R145, for `ldAtA16Sp`: completes in every state; `SP`'s low byte at `a16` and its
high byte at `a16 +16 1` (which wraps, the spec's decision D5), every other cell, register and flag
stays, `pc +16 2`, 20 cycles. -/
def Obligations.StoreStackPointerCompletes : Prop :=
  ∀ (a16 : Word) (s : State), Memory.wf s.mem = true → ∃ t, exec (.ldAtA16Sp a16) s = .next t ∧
    (t.memRead a16).toNat = s.sp.toNat % 256 ∧ (t.memRead (a16 + 1)).toNat = s.sp.toNat / 256 ∧
    KeepsCellsBut [a16, a16 + 1] s t ∧ Advances s t 2 20 ∧
    t.a = s.a ∧ KeepsHalvesBut [] s t ∧ KeepsFlags s t ∧ KeepsSpecials s t

/-- 20_memory.md section 7 (R85, which the spec marks as derived): a byte stored by LD (rr),A at the
address of the next instruction is the opcode the very next Fetch reads. -/
def Obligations.StoreIsSeenByTheNextFetch : Prop :=
  ∀ (rr : Pair) (s t : State), Memory.wf s.mem = true → exec (ldAtPairA rr) s = .next t →
    s.wide rr = t.pc → t.fetch.opcode = s.a

/-! ### Increment and decrement -/

/-- 42_inc_dec.md R150, for `incBc`, `incDe`, `incHl`: completes in every state; the wide value plus 1
modulo 65536, no flag, 8 cycles, `pc` as Fetch left it, nothing else written; one byte long. -/
def Obligations.IncrementPairCompletes : Prop :=
  ∀ (rr : Pair) (s : State), (encode (incPair rr)).length = 1 ∧ ∃ t, exec (incPair rr) s = .next t ∧
    (t.wide rr).toNat = ((s.wide rr).toNat + 1) % 65536 ∧ Advances s t 0 8 ∧ t.a = s.a ∧
    KeepsHalvesBut (halvesOf rr) s t ∧ KeepsFlags s t ∧ KeepsSpecials s t ∧ KeepsCellsBut [] s t

/-- 42_inc_dec.md R154, for `decBc`, `decDe`, `decHl`: completes in every state; the wide value minus 1
modulo 65536, no flag, 8 cycles, `pc` as Fetch left it, nothing else written; one byte long. -/
def Obligations.DecrementPairCompletes : Prop :=
  ∀ (rr : Pair) (s : State), (encode (decPair rr)).length = 1 ∧ ∃ t, exec (decPair rr) s = .next t ∧
    (t.wide rr).toNat = ((s.wide rr).toNat + 65535) % 65536 ∧ Advances s t 0 8 ∧ t.a = s.a ∧
    KeepsHalvesBut (halvesOf rr) s t ∧ KeepsFlags s t ∧ KeepsSpecials s t ∧ KeepsCellsBut [] s t

/-- 42_inc_dec.md section 3, for `incB`, `incC`, `incD`, `incE`, `incH`, `incL`: completes exactly where
the decoded byte is below 99; the half holds the packed digits of the sum, `fZ` is 0, `fN` is 0, `fH`
tells a low nibble of 9, `fC` stays, 4 cycles, nothing else written. The range is the spec's decision
D8, the half-carry D9, the cost D4 (logs 8, 11 and 12). -/
def Obligations.IncrementHalfCompletes : Prop :=
  ∀ (r : Half) (s : State), bcdToDecimal (s.half r) < 99 → ∃ t, exec (incHalf r) s = .next t ∧
    (highNibble (t.half r) = (bcdToDecimal (s.half r) + 1) / 10 ∧
      lowNibble (t.half r) = (bcdToDecimal (s.half r) + 1) % 10) ∧
    t.fZ = false ∧ t.fN = false ∧ (t.fH = true ↔ lowNibble (s.half r) = 9) ∧ t.fC = s.fC ∧
    Advances s t 0 4 ∧ t.a = s.a ∧ KeepsHalvesBut [r] s t ∧ KeepsSpecials s t ∧ KeepsCellsBut [] s t

/-- 42_inc_dec.md section 3, for the same six: EncodingError with the sum, and no write, exactly for the
bytes 0x99 to 0xFF. The range is the spec's decision D8 (log 11), that `cycles` is not charged its
decision D10 (log 15); that the error ends the run is log 2. -/
def Obligations.IncrementHalfRaisesAboveRange : Prop :=
  ∀ (r : Half) (s : State),
    (99 ≤ bcdToDecimal (s.half r) ↔ 0x99 ≤ (s.half r).toNat) ∧
    (0x99 ≤ (s.half r).toNat → ∃ t,
      exec (incHalf r) s = .fault (.raised (.encodingError (bcdToDecimal (s.half r) + 1)) t) ∧
        LeavesAll s t)

/-- 42_inc_dec.md section 4, for `decB`, `decC`, `decD`, `decE`, `decH`, `decL`: completes exactly where
the decoded byte is 1 to 100; the half holds the packed digits of the difference, `fZ` is 1 exactly
when the decoded byte was 1, `fN` is 1, `fH` tells a low nibble of 0, `fC` stays, 4 cycles, nothing
else written. The range is the spec's decision D8, the half-carry D9, the cost D4 (logs 8, 11, 12). -/
def Obligations.DecrementHalfCompletes : Prop :=
  ∀ (r : Half) (s : State), 1 ≤ bcdToDecimal (s.half r) → bcdToDecimal (s.half r) ≤ 100 →
    ∃ t, exec (decHalf r) s = .next t ∧
    (highNibble (t.half r) = (bcdToDecimal (s.half r) - 1) / 10 ∧
      lowNibble (t.half r) = (bcdToDecimal (s.half r) - 1) % 10) ∧
    (t.fZ = true ↔ bcdToDecimal (s.half r) = 1) ∧ t.fN = true ∧
    (t.fH = true ↔ lowNibble (s.half r) = 0) ∧ t.fC = s.fC ∧
    Advances s t 0 4 ∧ t.a = s.a ∧ KeepsHalvesBut [r] s t ∧ KeepsSpecials s t ∧ KeepsCellsBut [] s t

/-- 42_inc_dec.md section 4, for the same six: EncodingError with the difference, and no write, exactly
for the bytes 0x00, 0x9B to 0x9F and 0xA1 to 0xFF. The range is the spec's decision D8 (log 11), that
`cycles` is not charged its decision D10 (log 15); that the error ends the run is log 2. -/
def Obligations.DecrementHalfRaisesOutOfRange : Prop :=
  ∀ (r : Half) (s : State),
    ((bcdToDecimal (s.half r) = 0 ∨ 101 ≤ bcdToDecimal (s.half r)) ↔
      (s.half r = 0x00#8 ∨ (0x9B ≤ (s.half r).toNat ∧ (s.half r).toNat ≤ 0x9F) ∨
        0xA1 ≤ (s.half r).toNat)) ∧
    ((bcdToDecimal (s.half r) = 0 ∨ 101 ≤ bcdToDecimal (s.half r)) → ∃ t,
      exec (decHalf r) s = .fault (.raised (.encodingError ((bcdToDecimal (s.half r) : Int) - 1)) t) ∧
        LeavesAll s t)

/-! ### Rotates, no-ops, faulting slots -/

/-- 43_rotate_nop_unimpl.md section 2, for `rlca`: completes in every state; `A` is
`((old * 2) mod 256) + old[7]`, `fC` the old bit 7, the other flags and all else stay, 4 cycles (the
cost is the spec's decision D4, log 8). -/
def Obligations.RotateLeftCompletes : Prop :=
  ∀ s : State, ∃ t, exec .rlca s = .next t ∧
    t.a.toNat = s.a.toNat * 2 % 256 + s.a.toNat / 128 ∧ (t.fC = true ↔ 128 ≤ s.a.toNat) ∧
    t.fZ = s.fZ ∧ t.fN = s.fN ∧ t.fH = s.fH ∧
    Advances s t 0 4 ∧ KeepsHalvesBut [] s t ∧ KeepsSpecials s t ∧ KeepsCellsBut [] s t

/-- 43_rotate_nop_unimpl.md section 2, for `rrca`: completes in every state; `A` is
`(old div 2) + 128 * old[0]`, `fC` the old bit 0, the other flags and all else stay, 4 cycles (the
cost is the spec's decision D4, log 8). -/
def Obligations.RotateRightCompletes : Prop :=
  ∀ s : State, ∃ t, exec .rrca s = .next t ∧
    t.a.toNat = s.a.toNat / 2 + 128 * (s.a.toNat % 2) ∧ (t.fC = true ↔ s.a.toNat % 2 = 1) ∧
    t.fZ = s.fZ ∧ t.fN = s.fN ∧ t.fH = s.fH ∧
    Advances s t 0 4 ∧ KeepsHalvesBut [] s t ∧ KeepsSpecials s t ∧ KeepsCellsBut [] s t

/-- 43_rotate_nop_unimpl.md section 2: RRCA after RLCA restores `A` and leaves `fC` equal to bit 7 of
it, whatever the flags were: the old carry is no input. -/
def Obligations.RotateRightUndoesRotateLeft : Prop :=
  ∀ s t u : State, exec .rlca s = .next t → exec .rrca t = .next u →
    u.a = s.a ∧ (u.fC = true ↔ 128 ≤ s.a.toNat)

/-- 43_rotate_nop_unimpl.md section 1, for `nop`: completes in every state and changes only `cycles`, by
4 (the cost is the spec's decision D4, log 8). -/
def Obligations.NopCompletes : Prop :=
  ∀ s : State, ∃ t, exec .nop s = .next t ∧ Advances s t 0 4 ∧ t.a = s.a ∧
    KeepsHalvesBut [] s t ∧ KeepsFlags s t ∧ KeepsSpecials s t ∧ KeepsCellsBut [] s t

/-- 43_rotate_nop_unimpl.md R183, for `unimpl`: completes in every state, whatever the opcode byte, and
changes only `cycles`, by 4, with no further advance of `pc`; one byte long, the opcode. -/
def Obligations.UnimplementedOpcodeCompletes : Prop :=
  ∀ (opcode : Byte) (s : State), encode (.unimpl opcode) = [opcode] ∧
    ∃ t, exec (.unimpl opcode) s = .next t ∧ Advances s t 0 4 ∧ t.a = s.a ∧
    KeepsHalvesBut [] s t ∧ KeepsFlags s t ∧ KeepsSpecials s t ∧ KeepsCellsBut [] s t

/-- 43_rotate_nop_unimpl.md section 4, for `ldSpD16`, `incSp`, `decSp`, `incA`, `decA`, `ldAD8`: always
InvalidRegisterTarget with the opcode byte in `IR`, and nothing changed from what Fetch left; one byte
long. Which slots these are is the spec's decision D3 (log 7), that `cycles` is not charged its decision
D10 (log 15); that an error outcome is the model's fault is log 2. -/
def Obligations.FaultingSlotsAlwaysRaise : Prop :=
  ∀ i ∈ faultingSlots, ∀ s : State, (encode i).length = 1 ∧ ∃ t,
    exec i s = .fault (.raised (.invalidRegisterTarget s.opcode) t) ∧ LeavesAll s t

/-! ### The whole machine -/

/-- 40_engine_step.md section 2 (R117): the outcome of a step is `Ok`, `Err(InvalidRegisterTarget)`,
exactly at the six faulting bytes and with that byte, or `Err(EncodingError)`, only at INC r and DEC r and
only with a value outside 0 to 99; never BoundsError and never a refusal. The bytes are the spec's
decisions D2 and D3, and EncodingError its decision D8 (logs 7 and 11); that an error outcome is the
model's fault is log 2. -/
def Obligations.StepOutcomesAreThree : Prop :=
  ∀ s : State,
    (∃ t, step s = .next t ∧ s.memRead s.pc ∉ faultingOpcodes) ∨
      (∃ t, step s = .fault (.raised (.invalidRegisterTarget (s.memRead s.pc)) t) ∧
        s.memRead s.pc ∈ faultingOpcodes) ∨
      ∃ (v : Int) (t : State), step s = .fault (.raised (.encodingError v) t) ∧
        s.memRead s.pc ∈ incHalfOpcodes ++ decHalfOpcodes ∧ (v < 0 ∨ 99 < v)

/-- 60_exceptions.md section 1 (R203; that `cycles` is not charged is the spec's decision D10, log 15):
when a step ends in an error, Fetch's effects stand and nothing else has changed. That an error outcome
is the model's fault is log 2. -/
def Obligations.ErrorLeavesOnlyFetch : Prop :=
  ∀ (s t : State) (e : EngineError), step s = .fault (.raised e t) →
    t.ir.toNat = (s.memRead s.pc).toNat ∧ t.pc = s.pc + 1 ∧ t.sp = s.sp ∧ t.a = s.a ∧
      t.cycles = s.cycles ∧ KeepsHalvesBut [] s t ∧ KeepsFlags s t ∧ KeepsCellsBut [] s t

/-- 40_engine_step.md section 2 (R114, R115; wrap and costs are the spec's decisions D5 and D4, logs 8
and 9): a completed step adds the instruction's length to `pc` and its fixed cost to `cycles`, both told by
the opcode byte alone, so there is no control transfer and `cycles` only grows. -/
def Obligations.CompletedStepAdvancesByLengthAndCost : Prop :=
  ∀ s t : State, step s = .next t →
    t.pc = s.pc + BitVec.ofNat 16 (opcodeLength (s.memRead s.pc)) ∧
      t.cycles = s.cycles + cycleCost (s.memRead s.pc) ∧ t.ir.toNat = (s.memRead s.pc).toNat

/-- 10_state.md sections 2 and 5 (the access matrix R29 and R40, which the spec marks as derived or
complete): the FRAME of every instruction. When `exec i s` gives a next state, `SP` and `IR` stay; `A` and
`fC` change only by a rotate; `fZ`, `fN`, `fH` only by INC r and DEC r; a half-register only by the
instructions the matrix gives; a cell only where the instruction stores. -/
def Obligations.OnlyTheAccessMatrixIsWritten : Prop :=
  ∀ (i : Instr) (s t : State), exec i s = .next t →
    t.sp = s.sp ∧ t.ir = s.ir ∧ (¬ isRotate i → t.a = s.a ∧ t.fC = s.fC) ∧
      (¬ writesDigitFlags i → t.fZ = s.fZ ∧ t.fN = s.fN ∧ t.fH = s.fH) ∧
      KeepsHalvesBut (writtenHalves i) s t ∧ KeepsCellsBut (storedCells i s) s t

/-- 10_state.md section 5 (R38): no instruction reads a flag. Two states that differ only in their flags
step alike: both complete or both raise the same error, and the results differ at most in flags. That the two also agree in `MAR`
and `MDR`, which the spec leaves unspecified, is the model's choice of how it draws them, log 1. -/
def Obligations.NoInstructionReadsAFlag : Prop :=
  ∀ (s : State) (z n h c : Bool),
    (∀ t, step s = .next t →
      ∃ u, step (withFlags s z n h c) = .next u ∧ withFlags u t.fZ t.fN t.fH t.fC = t) ∧
    ∀ (e : EngineError) (t : State), step s = .fault (.raised e t) →
      ∃ u, step (withFlags s z n h c) = .fault (.raised e u) ∧ withFlags u t.fZ t.fN t.fH t.fC = t

/-- 10_state.md section 3 (R31): `MAR` and `MDR` are read by no instruction, and `IR` is overwritten by
Fetch before it is read (90_conflicts.md C5): a step does not depend on what they hold. That `MAR` and
`MDR` AFTER the step do not depend on it either is the model's choice (DESIGN CHOICE, log 1: they are
drawn from `Config.freeMar` and `Config.freeMdr`); R31 and R121 let a step leave them unchanged. -/
def Obligations.NoInstructionReadsTheStagingRegisters : Prop :=
  ∀ (s : State) (mar mdr ir : Word), step { s with mar := mar, mdr := mdr, ir := ir } = step s

/-- Every step keeps the invariant, and so does every error: memory stays canonical (the model's own
form) and the upper byte of `IR` is 0 (10_state.md section 3). -/
def Obligations.StepKeepsTheInvariant : Prop :=
  ∀ s : State, s.Inv →
    (∀ t, step s = .next t → t.Inv) ∧ ∀ (e : EngineError) (t : State), step s = .fault (.raised e t) → t.Inv

/-- The reset state meets the invariant. -/
def Obligations.ResetMeetsTheInvariant : Prop := State.reset.Inv

/-- Along any run of completed steps without a host transaction (10_state.md section 2 and
41_loads_stores.md sections 2 and 4, where the spec marks this as derived): `SP` never changes, a zero
accumulator stays zero, `cycles` grows at every step, and the invariant is kept. -/
def Obligations.RunsKeepStackPointerAndZeroAccumulator : Prop :=
  ∀ s t : State, Reaches s t →
    t.sp = s.sp ∧ (s.a = 0x00#8 → t.a = 0x00#8) ∧ (s = t ∨ s.cycles < t.cycles) ∧ (s.Inv → t.Inv)

/-! ### The host interface -/

/-- 70_reset_and_hazards.md R230: after RESET, from any state, every register and flag is 0, every cell
0x00 and `cycles` 0; and that is the state a run starts in. -/
def Obligations.ResetZeroesEverything : Prop :=
  ∀ s : State, ∃ t, transact .reset s = (.ok, t) ∧ t = { State.reset with draws := t.draws } ∧
    t.a = 0x00#8 ∧ (∀ r, t.half r = 0x00#8) ∧ t.sp = 0x0000#16 ∧ t.pc = 0x0000#16 ∧ t.ir = 0x0000#16 ∧
    t.mar = 0x0000#16 ∧ t.mdr = 0x0000#16 ∧ t.fZ = false ∧ t.fN = false ∧ t.fH = false ∧
    t.fC = false ∧ (∀ x, t.memRead x = 0x00#8) ∧ t.cycles = 0

/-- 70_reset_and_hazards.md R239: QUERY returns `Resolve(mode)`, for all eight modes, and changes
nothing, not even `MAR` or `MDR`. -/
def Obligations.QueryChangesNothing : Prop :=
  ∀ (mode : AddressingMode) (s : State), transact (.query mode) s = (.word (s.resolve mode), s)

/-- 70_reset_and_hazards.md section 5 (R241; the reach of pokes is the spec's decision D16, log 13): "A
poke writes the named register and nothing else", at every port: the state after it is the old one with
that register replaced (with a cell, the old one but for memory, where every other cell stays); a later
peek answers the value, and poking the old value back restores the state. -/
def Obligations.PokeWritesOneRegister : Prop :=
  ∀ s : State,
    PokesOneByteRegister s ∧ PokesOneWordRegister s ∧ PokesOneFlag s ∧
    (∀ v, transact (.setWide .bc v) s = (.ok, { s with bc := ⟨highByte v, lowByte v⟩ }) ∧
      transact (.setWide .de v) s = (.ok, { s with de := ⟨highByte v, lowByte v⟩ }) ∧
      transact (.setWide .hl v) s = (.ok, { s with hl := ⟨highByte v, lowByte v⟩ })) ∧
    (Memory.wf s.mem = true → ∀ addr v, ∃ t, transact (.writeCell addr v) s = (.ok, t) ∧
      { t with mem := s.mem } = s ∧ t.memRead addr = v ∧ KeepsCellsBut [addr] s t) ∧
    (∀ r v, (transact (.peekByte r) (transact (.pokeByte r v) s).2).1 = .byte v ∧
      (transact (.pokeByte r (s.byteReg r)) (transact (.pokeByte r v) s).2).2 = s) ∧
    (∀ r v, (transact (.peekWord r) (transact (.pokeWord r v) s).2).1 = .word v ∧
      (transact (.pokeWord r (s.wordReg r)) (transact (.pokeWord r v) s).2).2 = s) ∧
    (∀ f v, (transact (.peekFlag f) (transact (.pokeFlag f v) s).2).1 = .bit v ∧
      (transact (.pokeFlag f (s.flag f)) (transact (.pokeFlag f v) s).2).2 = s) ∧
    (∀ rr v, (transact (.getWide rr) (transact (.setWide rr v) s).2).1 = .word v ∧
      (transact (.setWide rr (s.wide rr)) (transact (.setWide rr v) s).2).2 = s) ∧
    (Memory.wf s.mem = true → ∀ addr v,
      (transact (.readCell addr) (transact (.writeCell addr v) s).2).1 = .byte v ∧
      (transact (.writeCell addr (s.memRead addr)) (transact (.writeCell addr v) s).2).2 = s)

/-- 70_reset_and_hazards.md section 5 (R241; its reach is the spec's decision D16, log 13): every peek
answers what the register, flag, pair, cell or counter holds, and changes nothing. -/
def Obligations.PeekAnswersAndChangesNothing : Prop :=
  ∀ s : State,
    (transact (.peekByte .a) s = (.byte s.a, s) ∧
      ∀ r, transact (.peekByte (.half r)) s = (.byte (s.half r), s)) ∧
    (transact (.peekWord .sp) s = (.word s.sp, s) ∧ transact (.peekWord .pc) s = (.word s.pc, s) ∧
      transact (.peekWord .ir) s = (.word s.ir, s) ∧ transact (.peekWord .mar) s = (.word s.mar, s) ∧
      transact (.peekWord .mdr) s = (.word s.mdr, s)) ∧
    (transact (.peekFlag .zero) s = (.bit s.fZ, s) ∧ transact (.peekFlag .subtraction) s = (.bit s.fN, s) ∧
      transact (.peekFlag .halfCarry) s = (.bit s.fH, s) ∧ transact (.peekFlag .carry) s = (.bit s.fC, s)) ∧
    (∀ rr, transact (.getHigh rr) s = (.byte (s.half (highHalf rr)), s) ∧
      transact (.getLow rr) s = (.byte (s.half (lowHalf rr)), s) ∧
      transact (.getWide rr) s = (.word (s.wide rr), s)) ∧
    (∀ addr, transact (.readCell addr) s = (.byte (s.memRead addr), s)) ∧
    transact .peekCycles s = (.number s.cycles, s)

/-- 70_reset_and_hazards.md section 5 (R238) with 40_engine_step.md section 2 (R117): the STEP
transaction performs one step and hands its outcome to the host: `Ok` and the state of a completed step,
or the error and the state it leaves; and it answers nothing else. That an error outcome is the model's
fault is log 2. -/
def Obligations.StepTransactionHandsOverTheOutcome : Prop :=
  ∀ s : State,
    (∀ t, step s = .next t → transact .step s = (.ok, t)) ∧
    (∀ (e : EngineError) (t : State), step s = .fault (.raised e t) → transact .step s = (.err e, t)) ∧
    ((transact .step s).1 = .ok ∨ (∃ opcode, (transact .step s).1 = .err (.invalidRegisterTarget opcode)) ∨
      ∃ v, (transact .step s).1 = .err (.encodingError v))

/-- 60_exceptions.md section 3 (R209) and 70_reset_and_hazards.md section 5 (R238): the host may go on
after an error. STEP hands over the error and leaves the state of R203, and the next STEP fetches from
the byte after the failing opcode. -/
def Obligations.HostGoesOnAfterAnError : Prop :=
  ∀ (s t : State) (e : EngineError), step s = .fault (.raised e t) →
    transact .step s = (.err e, t) ∧ t.fetch.opcode = s.memRead (s.pc + 1) ∧
      (∀ u, step t = .next u → transactAll [.step, .step] s = u)

/-- Every host transaction, a STEP that ends in an error too, keeps the memory canonical, and only RESET
makes `cycles` smaller (70_reset_and_hazards.md section 5, R237). -/
def Obligations.TransactionsKeepMemoryCanonical : Prop :=
  ∀ (xs : List Transaction) (s : State), Memory.wf s.mem = true →
    Memory.wf (transactAll xs s).mem = true ∧
      (Transaction.reset ∉ xs → s.cycles ≤ (transactAll xs s).cycles)

/-- 70_reset_and_hazards.md sections 2 and 5 (R232): how a program comes to run. After a LOAD of a
well-formed instruction's bytes at `pc`, inside the memory, the next step runs that instruction. -/
def Obligations.LoadedInstructionIsTheOneRun : Prop :=
  ∀ (s t : State) (i : Instr), Memory.wf s.mem = true → i.wellFormed = true →
    s.pc.toNat + (encode i).length ≤ 65536 →
    transact (.load (encode i) s.pc.toNat) s = (.ok, t) → step t = exec i t.fetch

/-! ### The parameter CYCLES_WIDTH -/

/-- 00_scope.md section 4 (CYCLES_WIDTH, OPEN) with 92_eei_decisions.md D6: with the default width the
machine is `step` and `transact`; with any width, runs and transactions are those of the unbounded
counter with the count wrapped, and the host hears the same but for the count. So the width reaches no
other state. That a finite counter wraps is log 17. -/
def Obligations.CycleWidthReachesOnlyTheCounter : Prop :=
  (∀ s, stepWith s = step s) ∧ (∀ x s, transactWith x s = transact x s) ∧
    ∀ width : CycleWidth,
      (∀ (n : Nat) (s u : State), runsFor n (s.wrapCycles width) u width ↔
        ∃ t, runsFor n s t ∧ u = t.wrapCycles width) ∧
      ∀ (x : Transaction) (s : State),
        (transactWith x (s.wrapCycles width) width).2 = (transact x s).2.wrapCycles width ∧
          (transactWith x (s.wrapCycles width) width).1 =
            if x = .peekCycles then .number (wrapCount width s.cycles) else (transact x s).1
end

