-- ==== Sys2Proof/Laws/Bcd.lean ====
section
/-! SUPPORT. The BCD unit: what each conversion and the BCD write can answer. -/

namespace Sys2Proof.Machine

theorem highNibble_le (b : Byte) : highNibble b ≤ 15 := by
  have := b.isLt; unfold highNibble; omega

theorem lowNibble_le (b : Byte) : lowNibble b ≤ 15 := by unfold lowNibble; omega

/-- Inside 0 to 99 the conversion packs the two digits (10_state.md R34). -/
theorem decimalToBcd_inRange {d : Int} (h0 : 0 ≤ d) (h : d ≤ 99) :
    decimalToBcd d = some (BitVec.ofNat 8 (d.toNat / 10 % 10 * 16 + d.toNat % 10)) := by
  rw [decimalToBcd, if_pos ⟨h0, h⟩]

/-- Outside 0 to 99 the conversion fails (10_state.md R34). -/
theorem decimalToBcd_outOfRange {d : Int} (h : d < 0 ∨ 99 < d) : decimalToBcd d = none := by
  rw [decimalToBcd, if_neg (by omega)]

/-- When the BCD write succeeds: the value was in range and the half holds its packed digits. -/
theorem State.setHalfBcd_ok {s t : State} {r : Half} {d : Int} (h : s.setHalfBcd r d = .ok t) :
    0 ≤ d ∧ d ≤ 99 ∧
      t = s.setHalf r (BitVec.ofNat 8 (d.toNat / 10 % 10 * 16 + d.toNat % 10)) := by
  by_cases hd : 0 ≤ d ∧ d ≤ 99
  · rw [State.setHalfBcd, decimalToBcd_inRange hd.1 hd.2] at h
    cases h
    exact ⟨hd.1, hd.2, rfl⟩
  · rw [State.setHalfBcd, decimalToBcd_outOfRange (by omega)] at h
    cases h

/-- When the BCD write fails: the value was out of range and the error carries it. -/
theorem State.setHalfBcd_error {s : State} {r : Half} {d : Int} {e : EngineError}
    (h : s.setHalfBcd r d = .error e) : (d < 0 ∨ 99 < d) ∧ e = .encodingError d := by
  by_cases hd : 0 ≤ d ∧ d ≤ 99
  · rw [State.setHalfBcd, decimalToBcd_inRange hd.1 hd.2] at h
    cases h
  · rw [State.setHalfBcd, decimalToBcd_outOfRange (by omega)] at h
    cases h
    exact ⟨by omega, rfl⟩

/-- In range the BCD write succeeds. -/
theorem State.setHalfBcd_inRange (s : State) (r : Half) {d : Int} (h0 : 0 ≤ d) (h : d ≤ 99) :
    s.setHalfBcd r d =
      .ok (s.setHalf r (BitVec.ofNat 8 (d.toNat / 10 % 10 * 16 + d.toNat % 10))) := by
  rw [State.setHalfBcd, decimalToBcd_inRange h0 h]

/-- Out of range the BCD write fails and names the value. -/
theorem State.setHalfBcd_outOfRange (s : State) (r : Half) {d : Int} (h : d < 0 ∨ 99 < d) :
    s.setHalfBcd r d = .error (.encodingError d) := by
  rw [State.setHalfBcd, decimalToBcd_outOfRange h]

/-- The BCD write either succeeds in range or fails out of it. -/
theorem State.setHalfBcd_total (s : State) (r : Half) (d : Int) :
    ((0 ≤ d ∧ d ≤ 99) ∧ ∃ t, s.setHalfBcd r d = .ok t) ∨
      ((d < 0 ∨ 99 < d) ∧ s.setHalfBcd r d = .error (.encodingError d)) := by
  by_cases h : 0 ≤ d ∧ d ≤ 99
  · exact .inl ⟨h, _, s.setHalfBcd_inRange r h.1 h.2⟩
  · exact .inr ⟨by omega, s.setHalfBcd_outOfRange r (by omega)⟩

end Sys2Proof.Machine
end

