-- ==== Sys2Proof/Laws/CycleWidth.lean ====
section
/-! SUPPORT. The counter of a given width: the default is the machine itself, and wrapping a count
early or late comes to the same. -/

namespace Sys2Proof.Machine

@[simp] theorem wrapCount_unbounded (n : Nat) : wrapCount .unbounded n = n := rfl

theorem wrapCount_lt (w n : Nat) : wrapCount (.bits w) n < 2 ^ w := Nat.mod_lt _ (Nat.two_pow_pos w)

@[simp] theorem wrapCount_add_left (width : CycleWidth) (n k : Nat) :
    wrapCount width (wrapCount width n + k) = wrapCount width (n + k) := by
  cases width with
  | unbounded => rfl
  | bits w => exact Nat.mod_add_mod n (2 ^ w) k

@[simp] theorem wrapCount_wrapCount (width : CycleWidth) (n : Nat) :
    wrapCount width (wrapCount width n) = wrapCount width n :=
  wrapCount_add_left width n 0

@[simp] theorem State.wrapCycles_unbounded (s : State) : s.wrapCycles .unbounded = s := rfl

@[simp] theorem State.wrapCycles_wrapCycles (s : State) (width : CycleWidth) :
    (s.wrapCycles width).wrapCycles width = s.wrapCycles width := by
  simp [State.wrapCycles]

@[simp] theorem State.wrapCycles_a (s : State) (width : CycleWidth) :
    (s.wrapCycles width).a = s.a := rfl
@[simp] theorem State.wrapCycles_bc (s : State) (width : CycleWidth) :
    (s.wrapCycles width).bc = s.bc := rfl
@[simp] theorem State.wrapCycles_de (s : State) (width : CycleWidth) :
    (s.wrapCycles width).de = s.de := rfl
@[simp] theorem State.wrapCycles_hl (s : State) (width : CycleWidth) :
    (s.wrapCycles width).hl = s.hl := rfl
@[simp] theorem State.wrapCycles_sp (s : State) (width : CycleWidth) :
    (s.wrapCycles width).sp = s.sp := rfl
@[simp] theorem State.wrapCycles_pc (s : State) (width : CycleWidth) :
    (s.wrapCycles width).pc = s.pc := rfl
@[simp] theorem State.wrapCycles_ir (s : State) (width : CycleWidth) :
    (s.wrapCycles width).ir = s.ir := rfl
@[simp] theorem State.wrapCycles_mar (s : State) (width : CycleWidth) :
    (s.wrapCycles width).mar = s.mar := rfl
@[simp] theorem State.wrapCycles_mdr (s : State) (width : CycleWidth) :
    (s.wrapCycles width).mdr = s.mdr := rfl
@[simp] theorem State.wrapCycles_fZ (s : State) (width : CycleWidth) :
    (s.wrapCycles width).fZ = s.fZ := rfl
@[simp] theorem State.wrapCycles_fN (s : State) (width : CycleWidth) :
    (s.wrapCycles width).fN = s.fN := rfl
@[simp] theorem State.wrapCycles_fH (s : State) (width : CycleWidth) :
    (s.wrapCycles width).fH = s.fH := rfl
@[simp] theorem State.wrapCycles_fC (s : State) (width : CycleWidth) :
    (s.wrapCycles width).fC = s.fC := rfl
@[simp] theorem State.wrapCycles_mem (s : State) (width : CycleWidth) :
    (s.wrapCycles width).mem = s.mem := rfl
@[simp] theorem State.wrapCycles_cycles (s : State) (width : CycleWidth) :
    (s.wrapCycles width).cycles = wrapCount width s.cycles := rfl
@[simp] theorem State.wrapCycles_draws (s : State) (width : CycleWidth) :
    (s.wrapCycles width).draws = s.draws := rfl

@[simp] theorem wrapOutcome_unbounded (o : StepOutcome) : wrapOutcome .unbounded o = o := by
  cases o with
  | fault f => cases f; rfl
  | _ => rfl

/-- With the default width the step is `step`. -/
theorem stepWith_unbounded (s : State) : stepWith s = step s := wrapOutcome_unbounded _

/-- With the default width a transaction is `transact`. -/
theorem transactWith_unbounded (x : Transaction) (s : State) : transactWith x s = transact x s := rfl

theorem stepWith_next {s t : State} (h : step s = .next t) (width : CycleWidth) :
    stepWith s width = .next (t.wrapCycles width) := by
  rw [stepWith, h]; rfl

theorem stepWith_raised {s t : State} {e : EngineError} (h : step s = .fault (.raised e t))
    (width : CycleWidth) : stepWith s width = .fault (.raised e (t.wrapCycles width)) := by
  rw [stepWith, h]; rfl

/-! ### An instruction gives the counter its cost and nothing else -/

theorem State.wrapCycles_retire (s : State) (width : CycleWidth) (n c : Nat) :
    ((s.wrapCycles width).retire n c).wrapCycles width = (s.retire n c).wrapCycles width := by
  simp [State.retire, State.drawStaging, State.wrapCycles]

theorem State.setHalfBcd_wrapCycles (s : State) (width : CycleWidth) (r : Half) (d : Int) :
    (s.wrapCycles width).setHalfBcd r d =
      (s.setHalfBcd r d).map fun t => t.wrapCycles width := by
  unfold State.setHalfBcd
  cases decimalToBcd d with
  | none => rfl
  | some b => cases r <;> rfl

theorem wrapOutcome_raiseError (width : CycleWidth) (e : EngineError) (s : State) :
    wrapOutcome width (raiseError e (s.wrapCycles width)) = wrapOutcome width (raiseError e s) := by
  simp [raiseError, wrapOutcome, State.drawStaging, State.wrapCycles]

theorem wrapOutcome_next_retire (width : CycleWidth) (s u : State) (n c : Nat) (h : u = s.wrapCycles width) :
    wrapOutcome width (.next (u.retire n c)) = wrapOutcome width (.next (s.retire n c)) := by
  subst h; exact congrArg Host.Outcome.next (State.wrapCycles_retire ..)

theorem wrapOutcome_incrementHalf (width : CycleWidth) (r : Half) (s : State) :
    wrapOutcome width (incrementHalf r (s.wrapCycles width)) = wrapOutcome width (incrementHalf r s) := by
  have h : (s.wrapCycles width).half r = s.half r := by cases r <;> rfl
  rw [incrementHalf, incrementHalf, h]
  unfold writeIncremented
  rw [State.setHalfBcd_wrapCycles]
  cases s.setHalfBcd r (bcdToDecimal (s.half r) + 1) with
  | error e => exact wrapOutcome_raiseError ..
  | ok t => exact wrapOutcome_next_retire _ _ _ _ _ rfl

theorem wrapOutcome_decrementHalf (width : CycleWidth) (r : Half) (s : State) :
    wrapOutcome width (decrementHalf r (s.wrapCycles width)) = wrapOutcome width (decrementHalf r s) := by
  have h : (s.wrapCycles width).half r = s.half r := by cases r <;> rfl
  rw [decrementHalf, decrementHalf, h]
  unfold writeDecremented
  rw [State.setHalfBcd_wrapCycles]
  cases s.setHalfBcd r (bcdToDecimal (s.half r) - 1) with
  | error e => exact wrapOutcome_raiseError ..
  | ok t => exact wrapOutcome_next_retire _ _ _ _ _ rfl

/-- Wrapping the count before an instruction or after it comes to the same. -/
theorem wrapOutcome_exec (width : CycleWidth) (i : Instr) (s : State) :
    wrapOutcome width (exec i (s.wrapCycles width)) = wrapOutcome width (exec i s) := by
  cases i with
  | incB | incC | incD | incE | incH | incL => exact wrapOutcome_incrementHalf width _ s
  | decB | decC | decD | decE | decH | decL => exact wrapOutcome_decrementHalf width _ s
  | ldSpD16 | incSp | decSp | incA | decA | ldAD8 => exact wrapOutcome_raiseError width _ s
  | _ => exact wrapOutcome_next_retire width _ _ _ _ rfl

theorem stepWith_wrapCycles (s : State) (width : CycleWidth) :
    stepWith (s.wrapCycles width) width = stepWith s width :=
  wrapOutcome_exec width s.fetch.fetchedInstr s.fetch

end Sys2Proof.Machine
end

