-- ==== Sys2Proof/Laws/Decode.lean ====
section
/-! SUPPORT. The dispatch table and the decoder: which entry a byte has, what each length ignores, and
what a decode answers. -/

namespace Sys2Proof

theorem byte_eq_ofNat {b : Byte} {k : Nat} (h : b.toNat = k) : b = BitVec.ofNat 8 k := by
  subst h; simp

/-- A byte of none of the two lists has the entry UNIMPL (30_encoding.md R100). -/
theorem dispatch_unimplemented {b : Byte} (d8 : Byte) (d16 : Word) (h : isUnimplemented b = true) :
    dispatch b d8 d16 = .unimpl b := by
  unfold dispatch
  split <;> first
    | rfl
    | (rename_i hb; rw [byte_eq_ofNat hb] at h; exact absurd h (by decide))

/-- An unimplemented opcode is one byte long (30_encoding.md R100). -/
theorem opcodeLength_unimplemented {b : Byte} (h : isUnimplemented b = true) : opcodeLength b = 1 := by
  revert b; decide

/-- Only 1, 2 and 3 are lengths (30_encoding.md R90). -/
theorem opcodeLength_cases (b : Byte) :
    opcodeLength b = 1 ∨ opcodeLength b = 2 ∨ opcodeLength b = 3 := by
  revert b; decide

/-- A one-byte instruction ignores what stands after it. -/
theorem dispatch_ofLengthOne {b : Byte} (d8 : Byte) (d16 : Word) (h : opcodeLength b = 1) :
    dispatch b d8 d16 = dispatch b 0 0 := by
  unfold dispatch
  split <;> first
    | rfl
    | (rename_i hb; rw [byte_eq_ofNat hb] at h; exact absurd h (by decide))

/-- A two-byte instruction takes its operand from the byte alone. -/
theorem dispatch_ofLengthTwo {b : Byte} (d8 : Byte) (d16 : Word) (h : opcodeLength b = 2) :
    dispatch b d8 d16 = dispatch b d8 0 := by
  unfold dispatch
  split <;> first
    | rfl
    | (rename_i hb; rw [byte_eq_ofNat hb] at h; exact absurd h (by decide))

/-- A three-byte instruction takes its operand from the word alone. -/
theorem dispatch_ofLengthThree {b : Byte} (d8 : Byte) (d16 : Word) (h : opcodeLength b = 3) :
    dispatch b d8 d16 = dispatch b 0 d16 := by
  unfold dispatch
  split <;> first
    | rfl
    | (rename_i hb; rw [byte_eq_ofNat hb] at h; exact absurd h (by decide))

theorem decode_ofLengthOne {b : Byte} (rest : List Byte) (h : opcodeLength b = 1) :
    decode (b :: rest) = .ok (dispatch b 0 0, rest) := by
  simp only [decode, h]

theorem decode_ofLengthTwo {b d8 : Byte} (rest : List Byte) (h : opcodeLength b = 2) :
    decode (b :: d8 :: rest) = .ok (dispatch b d8 0, rest) := by
  simp only [decode, h]

theorem decode_ofLengthThree {b lo hi : Byte} (rest : List Byte) (h : opcodeLength b = 3) :
    decode (b :: lo :: hi :: rest) = .ok (dispatch b 0 (joinBytes hi lo), rest) := by
  simp only [decode, h]

/-- What a decode that succeeds has read: the opcode and as many operand bytes as its length says. -/
theorem decode_cases {bytes rest : List Byte} {i : Instr} (h : decode bytes = .ok (i, rest)) :
    ∃ b, (opcodeLength b = 1 ∧ bytes = b :: rest ∧ i = dispatch b 0 0) ∨
      (opcodeLength b = 2 ∧ ∃ d8, bytes = b :: d8 :: rest ∧ i = dispatch b d8 0) ∨
      (opcodeLength b = 3 ∧ ∃ lo hi, bytes = b :: lo :: hi :: rest ∧
        i = dispatch b 0 (joinBytes hi lo)) := by
  match bytes, h with
  | b :: tail, h =>
    refine ⟨b, ?_⟩
    obtain hb | hb | hb := opcodeLength_cases b
    · rw [decode_ofLengthOne tail hb] at h
      cases h; exact .inl ⟨hb, rfl, rfl⟩
    · match tail, h with
      | [], h => simp only [decode, hb] at h; cases h
      | d8 :: tail, h =>
        rw [decode_ofLengthTwo tail hb] at h
        cases h; exact .inr (.inl ⟨hb, d8, rfl, rfl⟩)
    · match tail, h with
      | [], h => simp only [decode, hb] at h; cases h
      | [lo], h => simp only [decode, hb] at h; cases h
      | lo :: hi :: tail, h =>
        rw [decode_ofLengthThree tail hb] at h
        cases h; exact .inr (.inr ⟨hb, lo, hi, rfl, rfl⟩)

end Sys2Proof
end

