-- ==== Sys2Proof/Laws/State.lean ====
section
/-! SUPPORT. What each update of the state does to each field, so that no later proof unfolds one. -/

namespace Sys2Proof.Machine

/-! ### `State.setPair` -/

@[simp] theorem State.setPair_a (s : State) (rr : Pair) (p : RegPair) : (s.setPair rr p).a = s.a := by cases rr <;> rfl
@[simp] theorem State.setPair_sp (s : State) (rr : Pair) (p : RegPair) : (s.setPair rr p).sp = s.sp := by cases rr <;> rfl
@[simp] theorem State.setPair_pc (s : State) (rr : Pair) (p : RegPair) : (s.setPair rr p).pc = s.pc := by cases rr <;> rfl
@[simp] theorem State.setPair_ir (s : State) (rr : Pair) (p : RegPair) : (s.setPair rr p).ir = s.ir := by cases rr <;> rfl
@[simp] theorem State.setPair_mar (s : State) (rr : Pair) (p : RegPair) : (s.setPair rr p).mar = s.mar := by cases rr <;> rfl
@[simp] theorem State.setPair_mdr (s : State) (rr : Pair) (p : RegPair) : (s.setPair rr p).mdr = s.mdr := by cases rr <;> rfl
@[simp] theorem State.setPair_fZ (s : State) (rr : Pair) (p : RegPair) : (s.setPair rr p).fZ = s.fZ := by cases rr <;> rfl
@[simp] theorem State.setPair_fN (s : State) (rr : Pair) (p : RegPair) : (s.setPair rr p).fN = s.fN := by cases rr <;> rfl
@[simp] theorem State.setPair_fH (s : State) (rr : Pair) (p : RegPair) : (s.setPair rr p).fH = s.fH := by cases rr <;> rfl
@[simp] theorem State.setPair_fC (s : State) (rr : Pair) (p : RegPair) : (s.setPair rr p).fC = s.fC := by cases rr <;> rfl
@[simp] theorem State.setPair_mem (s : State) (rr : Pair) (p : RegPair) : (s.setPair rr p).mem = s.mem := by cases rr <;> rfl
@[simp] theorem State.setPair_cycles (s : State) (rr : Pair) (p : RegPair) : (s.setPair rr p).cycles = s.cycles := by cases rr <;> rfl
@[simp] theorem State.setPair_draws (s : State) (rr : Pair) (p : RegPair) : (s.setPair rr p).draws = s.draws := by cases rr <;> rfl
@[simp] theorem State.setPair_memRead (s : State) (rr : Pair) (p : RegPair) (x : Word) : (s.setPair rr p).memRead x = s.memRead x := by cases rr <;> rfl

/-! ### `State.setWide` -/

@[simp] theorem State.setWide_a (s : State) (rr : Pair) (v : Word) : (s.setWide rr v).a = s.a := by cases rr <;> rfl
@[simp] theorem State.setWide_sp (s : State) (rr : Pair) (v : Word) : (s.setWide rr v).sp = s.sp := by cases rr <;> rfl
@[simp] theorem State.setWide_pc (s : State) (rr : Pair) (v : Word) : (s.setWide rr v).pc = s.pc := by cases rr <;> rfl
@[simp] theorem State.setWide_ir (s : State) (rr : Pair) (v : Word) : (s.setWide rr v).ir = s.ir := by cases rr <;> rfl
@[simp] theorem State.setWide_mar (s : State) (rr : Pair) (v : Word) : (s.setWide rr v).mar = s.mar := by cases rr <;> rfl
@[simp] theorem State.setWide_mdr (s : State) (rr : Pair) (v : Word) : (s.setWide rr v).mdr = s.mdr := by cases rr <;> rfl
@[simp] theorem State.setWide_fZ (s : State) (rr : Pair) (v : Word) : (s.setWide rr v).fZ = s.fZ := by cases rr <;> rfl
@[simp] theorem State.setWide_fN (s : State) (rr : Pair) (v : Word) : (s.setWide rr v).fN = s.fN := by cases rr <;> rfl
@[simp] theorem State.setWide_fH (s : State) (rr : Pair) (v : Word) : (s.setWide rr v).fH = s.fH := by cases rr <;> rfl
@[simp] theorem State.setWide_fC (s : State) (rr : Pair) (v : Word) : (s.setWide rr v).fC = s.fC := by cases rr <;> rfl
@[simp] theorem State.setWide_mem (s : State) (rr : Pair) (v : Word) : (s.setWide rr v).mem = s.mem := by cases rr <;> rfl
@[simp] theorem State.setWide_cycles (s : State) (rr : Pair) (v : Word) : (s.setWide rr v).cycles = s.cycles := by cases rr <;> rfl
@[simp] theorem State.setWide_draws (s : State) (rr : Pair) (v : Word) : (s.setWide rr v).draws = s.draws := by cases rr <;> rfl
@[simp] theorem State.setWide_memRead (s : State) (rr : Pair) (v : Word) (x : Word) : (s.setWide rr v).memRead x = s.memRead x := by cases rr <;> rfl

/-! ### `State.setHalf` -/

@[simp] theorem State.setHalf_a (s : State) (r : Half) (v : Byte) : (s.setHalf r v).a = s.a := by cases r <;> rfl
@[simp] theorem State.setHalf_sp (s : State) (r : Half) (v : Byte) : (s.setHalf r v).sp = s.sp := by cases r <;> rfl
@[simp] theorem State.setHalf_pc (s : State) (r : Half) (v : Byte) : (s.setHalf r v).pc = s.pc := by cases r <;> rfl
@[simp] theorem State.setHalf_ir (s : State) (r : Half) (v : Byte) : (s.setHalf r v).ir = s.ir := by cases r <;> rfl
@[simp] theorem State.setHalf_mar (s : State) (r : Half) (v : Byte) : (s.setHalf r v).mar = s.mar := by cases r <;> rfl
@[simp] theorem State.setHalf_mdr (s : State) (r : Half) (v : Byte) : (s.setHalf r v).mdr = s.mdr := by cases r <;> rfl
@[simp] theorem State.setHalf_fZ (s : State) (r : Half) (v : Byte) : (s.setHalf r v).fZ = s.fZ := by cases r <;> rfl
@[simp] theorem State.setHalf_fN (s : State) (r : Half) (v : Byte) : (s.setHalf r v).fN = s.fN := by cases r <;> rfl
@[simp] theorem State.setHalf_fH (s : State) (r : Half) (v : Byte) : (s.setHalf r v).fH = s.fH := by cases r <;> rfl
@[simp] theorem State.setHalf_fC (s : State) (r : Half) (v : Byte) : (s.setHalf r v).fC = s.fC := by cases r <;> rfl
@[simp] theorem State.setHalf_mem (s : State) (r : Half) (v : Byte) : (s.setHalf r v).mem = s.mem := by cases r <;> rfl
@[simp] theorem State.setHalf_cycles (s : State) (r : Half) (v : Byte) : (s.setHalf r v).cycles = s.cycles := by cases r <;> rfl
@[simp] theorem State.setHalf_draws (s : State) (r : Half) (v : Byte) : (s.setHalf r v).draws = s.draws := by cases r <;> rfl
@[simp] theorem State.setHalf_memRead (s : State) (r : Half) (v : Byte) (x : Word) : (s.setHalf r v).memRead x = s.memRead x := by cases r <;> rfl

/-! ### `State.setA` -/

@[simp] theorem State.setA_a (s : State) (v : Byte) : (s.setA v).a = v := rfl
@[simp] theorem State.setA_bc (s : State) (v : Byte) : (s.setA v).bc = s.bc := rfl
@[simp] theorem State.setA_de (s : State) (v : Byte) : (s.setA v).de = s.de := rfl
@[simp] theorem State.setA_hl (s : State) (v : Byte) : (s.setA v).hl = s.hl := rfl
@[simp] theorem State.setA_sp (s : State) (v : Byte) : (s.setA v).sp = s.sp := rfl
@[simp] theorem State.setA_pc (s : State) (v : Byte) : (s.setA v).pc = s.pc := rfl
@[simp] theorem State.setA_ir (s : State) (v : Byte) : (s.setA v).ir = s.ir := rfl
@[simp] theorem State.setA_mar (s : State) (v : Byte) : (s.setA v).mar = s.mar := rfl
@[simp] theorem State.setA_mdr (s : State) (v : Byte) : (s.setA v).mdr = s.mdr := rfl
@[simp] theorem State.setA_fZ (s : State) (v : Byte) : (s.setA v).fZ = s.fZ := rfl
@[simp] theorem State.setA_fN (s : State) (v : Byte) : (s.setA v).fN = s.fN := rfl
@[simp] theorem State.setA_fH (s : State) (v : Byte) : (s.setA v).fH = s.fH := rfl
@[simp] theorem State.setA_fC (s : State) (v : Byte) : (s.setA v).fC = s.fC := rfl
@[simp] theorem State.setA_mem (s : State) (v : Byte) : (s.setA v).mem = s.mem := rfl
@[simp] theorem State.setA_cycles (s : State) (v : Byte) : (s.setA v).cycles = s.cycles := rfl
@[simp] theorem State.setA_draws (s : State) (v : Byte) : (s.setA v).draws = s.draws := rfl
@[simp] theorem State.setA_memRead (s : State) (v : Byte) (x : Word) : (s.setA v).memRead x = s.memRead x := rfl
@[simp] theorem State.setA_pair (s : State) (v : Byte) (q : Pair) : (s.setA v).pair q = s.pair q := by cases q <;> rfl
@[simp] theorem State.setA_wide (s : State) (v : Byte) (q : Pair) : (s.setA v).wide q = s.wide q := by cases q <;> rfl
@[simp] theorem State.setA_half (s : State) (v : Byte) (q : Half) : (s.setA v).half q = s.half q := by cases q <;> rfl

/-! ### `State.memWrite` -/

@[simp] theorem State.memWrite_a (s : State) (addr : Word) (v : Byte) : (s.memWrite addr v).a = s.a := rfl
@[simp] theorem State.memWrite_bc (s : State) (addr : Word) (v : Byte) : (s.memWrite addr v).bc = s.bc := rfl
@[simp] theorem State.memWrite_de (s : State) (addr : Word) (v : Byte) : (s.memWrite addr v).de = s.de := rfl
@[simp] theorem State.memWrite_hl (s : State) (addr : Word) (v : Byte) : (s.memWrite addr v).hl = s.hl := rfl
@[simp] theorem State.memWrite_sp (s : State) (addr : Word) (v : Byte) : (s.memWrite addr v).sp = s.sp := rfl
@[simp] theorem State.memWrite_pc (s : State) (addr : Word) (v : Byte) : (s.memWrite addr v).pc = s.pc := rfl
@[simp] theorem State.memWrite_ir (s : State) (addr : Word) (v : Byte) : (s.memWrite addr v).ir = s.ir := rfl
@[simp] theorem State.memWrite_mar (s : State) (addr : Word) (v : Byte) : (s.memWrite addr v).mar = s.mar := rfl
@[simp] theorem State.memWrite_mdr (s : State) (addr : Word) (v : Byte) : (s.memWrite addr v).mdr = s.mdr := rfl
@[simp] theorem State.memWrite_fZ (s : State) (addr : Word) (v : Byte) : (s.memWrite addr v).fZ = s.fZ := rfl
@[simp] theorem State.memWrite_fN (s : State) (addr : Word) (v : Byte) : (s.memWrite addr v).fN = s.fN := rfl
@[simp] theorem State.memWrite_fH (s : State) (addr : Word) (v : Byte) : (s.memWrite addr v).fH = s.fH := rfl
@[simp] theorem State.memWrite_fC (s : State) (addr : Word) (v : Byte) : (s.memWrite addr v).fC = s.fC := rfl
@[simp] theorem State.memWrite_mem (s : State) (addr : Word) (v : Byte) : (s.memWrite addr v).mem = Memory.write s.mem addr.toNat v := rfl
@[simp] theorem State.memWrite_cycles (s : State) (addr : Word) (v : Byte) : (s.memWrite addr v).cycles = s.cycles := rfl
@[simp] theorem State.memWrite_draws (s : State) (addr : Word) (v : Byte) : (s.memWrite addr v).draws = s.draws := rfl
@[simp] theorem State.memWrite_pair (s : State) (addr : Word) (v : Byte) (q : Pair) : (s.memWrite addr v).pair q = s.pair q := by cases q <;> rfl
@[simp] theorem State.memWrite_wide (s : State) (addr : Word) (v : Byte) (q : Pair) : (s.memWrite addr v).wide q = s.wide q := by cases q <;> rfl
@[simp] theorem State.memWrite_half (s : State) (addr : Word) (v : Byte) (q : Half) : (s.memWrite addr v).half q = s.half q := by cases q <;> rfl

/-! ### `State.memWrite16` -/

@[simp] theorem State.memWrite16_a (s : State) (addr v : Word) : (s.memWrite16 addr v).a = s.a := rfl
@[simp] theorem State.memWrite16_bc (s : State) (addr v : Word) : (s.memWrite16 addr v).bc = s.bc := rfl
@[simp] theorem State.memWrite16_de (s : State) (addr v : Word) : (s.memWrite16 addr v).de = s.de := rfl
@[simp] theorem State.memWrite16_hl (s : State) (addr v : Word) : (s.memWrite16 addr v).hl = s.hl := rfl
@[simp] theorem State.memWrite16_sp (s : State) (addr v : Word) : (s.memWrite16 addr v).sp = s.sp := rfl
@[simp] theorem State.memWrite16_pc (s : State) (addr v : Word) : (s.memWrite16 addr v).pc = s.pc := rfl
@[simp] theorem State.memWrite16_ir (s : State) (addr v : Word) : (s.memWrite16 addr v).ir = s.ir := rfl
@[simp] theorem State.memWrite16_mar (s : State) (addr v : Word) : (s.memWrite16 addr v).mar = s.mar := rfl
@[simp] theorem State.memWrite16_mdr (s : State) (addr v : Word) : (s.memWrite16 addr v).mdr = s.mdr := rfl
@[simp] theorem State.memWrite16_fZ (s : State) (addr v : Word) : (s.memWrite16 addr v).fZ = s.fZ := rfl
@[simp] theorem State.memWrite16_fN (s : State) (addr v : Word) : (s.memWrite16 addr v).fN = s.fN := rfl
@[simp] theorem State.memWrite16_fH (s : State) (addr v : Word) : (s.memWrite16 addr v).fH = s.fH := rfl
@[simp] theorem State.memWrite16_fC (s : State) (addr v : Word) : (s.memWrite16 addr v).fC = s.fC := rfl
@[simp] theorem State.memWrite16_mem (s : State) (addr v : Word) : (s.memWrite16 addr v).mem = Memory.write (Memory.write s.mem addr.toNat (lowByte v)) (addr + 1).toNat (highByte v) := rfl
@[simp] theorem State.memWrite16_cycles (s : State) (addr v : Word) : (s.memWrite16 addr v).cycles = s.cycles := rfl
@[simp] theorem State.memWrite16_draws (s : State) (addr v : Word) : (s.memWrite16 addr v).draws = s.draws := rfl
@[simp] theorem State.memWrite16_pair (s : State) (addr v : Word) (q : Pair) : (s.memWrite16 addr v).pair q = s.pair q := by cases q <;> rfl
@[simp] theorem State.memWrite16_wide (s : State) (addr v : Word) (q : Pair) : (s.memWrite16 addr v).wide q = s.wide q := by cases q <;> rfl
@[simp] theorem State.memWrite16_half (s : State) (addr v : Word) (q : Half) : (s.memWrite16 addr v).half q = s.half q := by cases q <;> rfl

/-! ### `State.setIncFlags` -/

@[simp] theorem State.setIncFlags_a (s : State) (old : Byte) (n : Int) : (s.setIncFlags old n).a = s.a := rfl
@[simp] theorem State.setIncFlags_bc (s : State) (old : Byte) (n : Int) : (s.setIncFlags old n).bc = s.bc := rfl
@[simp] theorem State.setIncFlags_de (s : State) (old : Byte) (n : Int) : (s.setIncFlags old n).de = s.de := rfl
@[simp] theorem State.setIncFlags_hl (s : State) (old : Byte) (n : Int) : (s.setIncFlags old n).hl = s.hl := rfl
@[simp] theorem State.setIncFlags_sp (s : State) (old : Byte) (n : Int) : (s.setIncFlags old n).sp = s.sp := rfl
@[simp] theorem State.setIncFlags_pc (s : State) (old : Byte) (n : Int) : (s.setIncFlags old n).pc = s.pc := rfl
@[simp] theorem State.setIncFlags_ir (s : State) (old : Byte) (n : Int) : (s.setIncFlags old n).ir = s.ir := rfl
@[simp] theorem State.setIncFlags_mar (s : State) (old : Byte) (n : Int) : (s.setIncFlags old n).mar = s.mar := rfl
@[simp] theorem State.setIncFlags_mdr (s : State) (old : Byte) (n : Int) : (s.setIncFlags old n).mdr = s.mdr := rfl
@[simp] theorem State.setIncFlags_fZ (s : State) (old : Byte) (n : Int) : (s.setIncFlags old n).fZ = decide (n = 0) := rfl
@[simp] theorem State.setIncFlags_fN (s : State) (old : Byte) (n : Int) : (s.setIncFlags old n).fN = false := rfl
@[simp] theorem State.setIncFlags_fH (s : State) (old : Byte) (n : Int) : (s.setIncFlags old n).fH = decide (lowNibble old = 9) := rfl
@[simp] theorem State.setIncFlags_fC (s : State) (old : Byte) (n : Int) : (s.setIncFlags old n).fC = s.fC := rfl
@[simp] theorem State.setIncFlags_mem (s : State) (old : Byte) (n : Int) : (s.setIncFlags old n).mem = s.mem := rfl
@[simp] theorem State.setIncFlags_cycles (s : State) (old : Byte) (n : Int) : (s.setIncFlags old n).cycles = s.cycles := rfl
@[simp] theorem State.setIncFlags_draws (s : State) (old : Byte) (n : Int) : (s.setIncFlags old n).draws = s.draws := rfl
@[simp] theorem State.setIncFlags_memRead (s : State) (old : Byte) (n : Int) (x : Word) : (s.setIncFlags old n).memRead x = s.memRead x := rfl
@[simp] theorem State.setIncFlags_pair (s : State) (old : Byte) (n : Int) (q : Pair) : (s.setIncFlags old n).pair q = s.pair q := by cases q <;> rfl
@[simp] theorem State.setIncFlags_wide (s : State) (old : Byte) (n : Int) (q : Pair) : (s.setIncFlags old n).wide q = s.wide q := by cases q <;> rfl
@[simp] theorem State.setIncFlags_half (s : State) (old : Byte) (n : Int) (q : Half) : (s.setIncFlags old n).half q = s.half q := by cases q <;> rfl

/-! ### `State.setDecFlags` -/

@[simp] theorem State.setDecFlags_a (s : State) (old : Byte) (n : Int) : (s.setDecFlags old n).a = s.a := rfl
@[simp] theorem State.setDecFlags_bc (s : State) (old : Byte) (n : Int) : (s.setDecFlags old n).bc = s.bc := rfl
@[simp] theorem State.setDecFlags_de (s : State) (old : Byte) (n : Int) : (s.setDecFlags old n).de = s.de := rfl
@[simp] theorem State.setDecFlags_hl (s : State) (old : Byte) (n : Int) : (s.setDecFlags old n).hl = s.hl := rfl
@[simp] theorem State.setDecFlags_sp (s : State) (old : Byte) (n : Int) : (s.setDecFlags old n).sp = s.sp := rfl
@[simp] theorem State.setDecFlags_pc (s : State) (old : Byte) (n : Int) : (s.setDecFlags old n).pc = s.pc := rfl
@[simp] theorem State.setDecFlags_ir (s : State) (old : Byte) (n : Int) : (s.setDecFlags old n).ir = s.ir := rfl
@[simp] theorem State.setDecFlags_mar (s : State) (old : Byte) (n : Int) : (s.setDecFlags old n).mar = s.mar := rfl
@[simp] theorem State.setDecFlags_mdr (s : State) (old : Byte) (n : Int) : (s.setDecFlags old n).mdr = s.mdr := rfl
@[simp] theorem State.setDecFlags_fZ (s : State) (old : Byte) (n : Int) : (s.setDecFlags old n).fZ = decide (n = 0) := rfl
@[simp] theorem State.setDecFlags_fN (s : State) (old : Byte) (n : Int) : (s.setDecFlags old n).fN = true := rfl
@[simp] theorem State.setDecFlags_fH (s : State) (old : Byte) (n : Int) : (s.setDecFlags old n).fH = decide (lowNibble old = 0) := rfl
@[simp] theorem State.setDecFlags_fC (s : State) (old : Byte) (n : Int) : (s.setDecFlags old n).fC = s.fC := rfl
@[simp] theorem State.setDecFlags_mem (s : State) (old : Byte) (n : Int) : (s.setDecFlags old n).mem = s.mem := rfl
@[simp] theorem State.setDecFlags_cycles (s : State) (old : Byte) (n : Int) : (s.setDecFlags old n).cycles = s.cycles := rfl
@[simp] theorem State.setDecFlags_draws (s : State) (old : Byte) (n : Int) : (s.setDecFlags old n).draws = s.draws := rfl
@[simp] theorem State.setDecFlags_memRead (s : State) (old : Byte) (n : Int) (x : Word) : (s.setDecFlags old n).memRead x = s.memRead x := rfl
@[simp] theorem State.setDecFlags_pair (s : State) (old : Byte) (n : Int) (q : Pair) : (s.setDecFlags old n).pair q = s.pair q := by cases q <;> rfl
@[simp] theorem State.setDecFlags_wide (s : State) (old : Byte) (n : Int) (q : Pair) : (s.setDecFlags old n).wide q = s.wide q := by cases q <;> rfl
@[simp] theorem State.setDecFlags_half (s : State) (old : Byte) (n : Int) (q : Half) : (s.setDecFlags old n).half q = s.half q := by cases q <;> rfl

/-! ### `State.setCarry` -/

@[simp] theorem State.setCarry_a (s : State) (out : Bool) : (s.setCarry out).a = s.a := rfl
@[simp] theorem State.setCarry_bc (s : State) (out : Bool) : (s.setCarry out).bc = s.bc := rfl
@[simp] theorem State.setCarry_de (s : State) (out : Bool) : (s.setCarry out).de = s.de := rfl
@[simp] theorem State.setCarry_hl (s : State) (out : Bool) : (s.setCarry out).hl = s.hl := rfl
@[simp] theorem State.setCarry_sp (s : State) (out : Bool) : (s.setCarry out).sp = s.sp := rfl
@[simp] theorem State.setCarry_pc (s : State) (out : Bool) : (s.setCarry out).pc = s.pc := rfl
@[simp] theorem State.setCarry_ir (s : State) (out : Bool) : (s.setCarry out).ir = s.ir := rfl
@[simp] theorem State.setCarry_mar (s : State) (out : Bool) : (s.setCarry out).mar = s.mar := rfl
@[simp] theorem State.setCarry_mdr (s : State) (out : Bool) : (s.setCarry out).mdr = s.mdr := rfl
@[simp] theorem State.setCarry_fZ (s : State) (out : Bool) : (s.setCarry out).fZ = s.fZ := rfl
@[simp] theorem State.setCarry_fN (s : State) (out : Bool) : (s.setCarry out).fN = s.fN := rfl
@[simp] theorem State.setCarry_fH (s : State) (out : Bool) : (s.setCarry out).fH = s.fH := rfl
@[simp] theorem State.setCarry_fC (s : State) (out : Bool) : (s.setCarry out).fC = out := rfl
@[simp] theorem State.setCarry_mem (s : State) (out : Bool) : (s.setCarry out).mem = s.mem := rfl
@[simp] theorem State.setCarry_cycles (s : State) (out : Bool) : (s.setCarry out).cycles = s.cycles := rfl
@[simp] theorem State.setCarry_draws (s : State) (out : Bool) : (s.setCarry out).draws = s.draws := rfl
@[simp] theorem State.setCarry_memRead (s : State) (out : Bool) (x : Word) : (s.setCarry out).memRead x = s.memRead x := rfl
@[simp] theorem State.setCarry_pair (s : State) (out : Bool) (q : Pair) : (s.setCarry out).pair q = s.pair q := by cases q <;> rfl
@[simp] theorem State.setCarry_wide (s : State) (out : Bool) (q : Pair) : (s.setCarry out).wide q = s.wide q := by cases q <;> rfl
@[simp] theorem State.setCarry_half (s : State) (out : Bool) (q : Half) : (s.setCarry out).half q = s.half q := by cases q <;> rfl

/-! ### `State.drawStaging` -/

@[simp] theorem State.drawStaging_a (s : State) : (s.drawStaging).a = s.a := rfl
@[simp] theorem State.drawStaging_bc (s : State) : (s.drawStaging).bc = s.bc := rfl
@[simp] theorem State.drawStaging_de (s : State) : (s.drawStaging).de = s.de := rfl
@[simp] theorem State.drawStaging_hl (s : State) : (s.drawStaging).hl = s.hl := rfl
@[simp] theorem State.drawStaging_sp (s : State) : (s.drawStaging).sp = s.sp := rfl
@[simp] theorem State.drawStaging_pc (s : State) : (s.drawStaging).pc = s.pc := rfl
@[simp] theorem State.drawStaging_ir (s : State) : (s.drawStaging).ir = s.ir := rfl
@[simp] theorem State.drawStaging_mar (s : State) : (s.drawStaging).mar = Config.freeMar s.draws := rfl
@[simp] theorem State.drawStaging_mdr (s : State) : (s.drawStaging).mdr = Config.freeMdr s.draws := rfl
@[simp] theorem State.drawStaging_fZ (s : State) : (s.drawStaging).fZ = s.fZ := rfl
@[simp] theorem State.drawStaging_fN (s : State) : (s.drawStaging).fN = s.fN := rfl
@[simp] theorem State.drawStaging_fH (s : State) : (s.drawStaging).fH = s.fH := rfl
@[simp] theorem State.drawStaging_fC (s : State) : (s.drawStaging).fC = s.fC := rfl
@[simp] theorem State.drawStaging_mem (s : State) : (s.drawStaging).mem = s.mem := rfl
@[simp] theorem State.drawStaging_cycles (s : State) : (s.drawStaging).cycles = s.cycles := rfl
@[simp] theorem State.drawStaging_draws (s : State) : (s.drawStaging).draws = s.draws + 1 := rfl
@[simp] theorem State.drawStaging_memRead (s : State) (x : Word) : (s.drawStaging).memRead x = s.memRead x := rfl
@[simp] theorem State.drawStaging_pair (s : State) (q : Pair) : (s.drawStaging).pair q = s.pair q := by cases q <;> rfl
@[simp] theorem State.drawStaging_wide (s : State) (q : Pair) : (s.drawStaging).wide q = s.wide q := by cases q <;> rfl
@[simp] theorem State.drawStaging_half (s : State) (q : Half) : (s.drawStaging).half q = s.half q := by cases q <;> rfl

/-! ### `State.fetch` -/

@[simp] theorem State.fetch_a (s : State) : (s.fetch).a = s.a := rfl
@[simp] theorem State.fetch_bc (s : State) : (s.fetch).bc = s.bc := rfl
@[simp] theorem State.fetch_de (s : State) : (s.fetch).de = s.de := rfl
@[simp] theorem State.fetch_hl (s : State) : (s.fetch).hl = s.hl := rfl
@[simp] theorem State.fetch_sp (s : State) : (s.fetch).sp = s.sp := rfl
@[simp] theorem State.fetch_pc (s : State) : (s.fetch).pc = s.pc + 1 := rfl
@[simp] theorem State.fetch_ir (s : State) : (s.fetch).ir = (s.memRead s.pc).zeroExtend 16 := rfl
@[simp] theorem State.fetch_mar (s : State) : (s.fetch).mar = s.mar := rfl
@[simp] theorem State.fetch_mdr (s : State) : (s.fetch).mdr = s.mdr := rfl
@[simp] theorem State.fetch_fZ (s : State) : (s.fetch).fZ = s.fZ := rfl
@[simp] theorem State.fetch_fN (s : State) : (s.fetch).fN = s.fN := rfl
@[simp] theorem State.fetch_fH (s : State) : (s.fetch).fH = s.fH := rfl
@[simp] theorem State.fetch_fC (s : State) : (s.fetch).fC = s.fC := rfl
@[simp] theorem State.fetch_mem (s : State) : (s.fetch).mem = s.mem := rfl
@[simp] theorem State.fetch_cycles (s : State) : (s.fetch).cycles = s.cycles := rfl
@[simp] theorem State.fetch_draws (s : State) : (s.fetch).draws = s.draws := rfl
@[simp] theorem State.fetch_memRead (s : State) (x : Word) : (s.fetch).memRead x = s.memRead x := rfl
@[simp] theorem State.fetch_pair (s : State) (q : Pair) : (s.fetch).pair q = s.pair q := by cases q <;> rfl
@[simp] theorem State.fetch_wide (s : State) (q : Pair) : (s.fetch).wide q = s.wide q := by cases q <;> rfl
@[simp] theorem State.fetch_half (s : State) (q : Half) : (s.fetch).half q = s.half q := by cases q <;> rfl

/-! ### `State.retire` -/

@[simp] theorem State.retire_a (s : State) (n c : Nat) : (s.retire n c).a = s.a := rfl
@[simp] theorem State.retire_bc (s : State) (n c : Nat) : (s.retire n c).bc = s.bc := rfl
@[simp] theorem State.retire_de (s : State) (n c : Nat) : (s.retire n c).de = s.de := rfl
@[simp] theorem State.retire_hl (s : State) (n c : Nat) : (s.retire n c).hl = s.hl := rfl
@[simp] theorem State.retire_sp (s : State) (n c : Nat) : (s.retire n c).sp = s.sp := rfl
@[simp] theorem State.retire_pc (s : State) (n c : Nat) : (s.retire n c).pc = s.pc + BitVec.ofNat 16 n := rfl
@[simp] theorem State.retire_ir (s : State) (n c : Nat) : (s.retire n c).ir = s.ir := rfl
@[simp] theorem State.retire_mar (s : State) (n c : Nat) : (s.retire n c).mar = Config.freeMar s.draws := rfl
@[simp] theorem State.retire_mdr (s : State) (n c : Nat) : (s.retire n c).mdr = Config.freeMdr s.draws := rfl
@[simp] theorem State.retire_fZ (s : State) (n c : Nat) : (s.retire n c).fZ = s.fZ := rfl
@[simp] theorem State.retire_fN (s : State) (n c : Nat) : (s.retire n c).fN = s.fN := rfl
@[simp] theorem State.retire_fH (s : State) (n c : Nat) : (s.retire n c).fH = s.fH := rfl
@[simp] theorem State.retire_fC (s : State) (n c : Nat) : (s.retire n c).fC = s.fC := rfl
@[simp] theorem State.retire_mem (s : State) (n c : Nat) : (s.retire n c).mem = s.mem := rfl
@[simp] theorem State.retire_cycles (s : State) (n c : Nat) : (s.retire n c).cycles = s.cycles + c := rfl
@[simp] theorem State.retire_draws (s : State) (n c : Nat) : (s.retire n c).draws = s.draws + 1 := rfl
@[simp] theorem State.retire_memRead (s : State) (n c : Nat) (x : Word) : (s.retire n c).memRead x = s.memRead x := rfl
@[simp] theorem State.retire_pair (s : State) (n c : Nat) (q : Pair) : (s.retire n c).pair q = s.pair q := by cases q <;> rfl
@[simp] theorem State.retire_wide (s : State) (n c : Nat) (q : Pair) : (s.retire n c).wide q = s.wide q := by cases q <;> rfl
@[simp] theorem State.retire_half (s : State) (n c : Nat) (q : Half) : (s.retire n c).half q = s.half q := by cases q <;> rfl

/-! ### Pairs and halves -/

theorem joinBytes_toNat (hi lo : Byte) : (joinBytes hi lo).toNat = hi.toNat * 256 + lo.toNat := by
  have := hi.isLt; have := lo.isLt
  rw [joinBytes, BitVec.toNat_ofNat]; omega

theorem highByte_toNat (v : Word) : (highByte v).toNat = v.toNat / 256 := by
  have := v.isLt
  rw [highByte, BitVec.toNat_ofNat]; omega

theorem lowByte_toNat (v : Word) : (lowByte v).toNat = v.toNat % 256 := by
  rw [lowByte, BitVec.toNat_ofNat]; omega

@[simp] theorem highByte_joinBytes (hi lo : Byte) : highByte (joinBytes hi lo) = hi := by
  have := lo.isLt
  apply BitVec.eq_of_toNat_eq; rw [highByte_toNat, joinBytes_toNat]; omega

@[simp] theorem lowByte_joinBytes (hi lo : Byte) : lowByte (joinBytes hi lo) = lo := by
  have := lo.isLt
  apply BitVec.eq_of_toNat_eq; rw [lowByte_toNat, joinBytes_toNat]; omega

@[simp] theorem joinBytes_high_low (v : Word) : joinBytes (highByte v) (lowByte v) = v := by
  apply BitVec.eq_of_toNat_eq; rw [joinBytes_toNat, highByte_toNat, lowByte_toNat]; omega

theorem zeroExtend_byte_toNat (b : Byte) : (b.zeroExtend 16).toNat = b.toNat := by
  have := b.isLt
  rw [BitVec.toNat_setWidth]; omega

@[simp] theorem lowByte_zeroExtend (b : Byte) : lowByte (b.zeroExtend 16) = b := by
  have := b.isLt
  apply BitVec.eq_of_toNat_eq; rw [lowByte_toNat, zeroExtend_byte_toNat]; omega

@[simp] theorem highByte_zeroExtend (b : Byte) : highByte (b.zeroExtend 16) = 0 := by
  have := b.isLt
  apply BitVec.eq_of_toNat_eq; rw [highByte_toNat, zeroExtend_byte_toNat]; change b.toNat / 256 = 0; omega

@[simp] theorem RegPair.wide_ofWide (v : Word) : (RegPair.ofWide v).wide = v := joinBytes_high_low v

@[simp] theorem RegPair.ofWide_wide (p : RegPair) : RegPair.ofWide p.wide = p := by
  cases p; simp [RegPair.ofWide, RegPair.wide]

@[simp] theorem State.setPair_pair_same (s : State) (rr : Pair) (p : RegPair) :
    (s.setPair rr p).pair rr = p := by cases rr <;> rfl

theorem State.setPair_pair_other (s : State) (rr q : Pair) (p : RegPair) (h : q ≠ rr) :
    (s.setPair rr p).pair q = s.pair q := by cases rr <;> cases q <;> first | rfl | exact absurd rfl h

@[simp] theorem State.setWide_wide_same (s : State) (rr : Pair) (v : Word) :
    (s.setWide rr v).wide rr = v := by simp [State.setWide, State.wide]

@[simp] theorem State.setHalf_half_same (s : State) (r : Half) (v : Byte) :
    (s.setHalf r v).half r = v := by cases r <;> rfl

theorem State.setHalf_half_other (s : State) (r q : Half) (v : Byte) (h : q ≠ r) :
    (s.setHalf r v).half q = s.half q := by cases r <;> cases q <;> first | rfl | exact absurd rfl h

/-- A pair is its two half-registers (10_state.md R23). -/
theorem State.pair_eq_halves (s : State) (rr : Pair) :
    s.pair rr = ⟨s.half (highHalf rr), s.half (lowHalf rr)⟩ := by cases rr <;> rfl

/-- After Fetch the dispatched byte is the one that was at `pc` (40_engine_step.md R111, R112). -/
@[simp] theorem State.fetch_opcode (s : State) : s.fetch.opcode = s.memRead s.pc := by
  simp [State.opcode]

end Sys2Proof.Machine
end

