-- ==== Sys2Proof/Laws/Exec.lean ====
section
/-! SUPPORT. What an instruction can do, said once: each shared operation's answers, then `exec`'s. -/

namespace Sys2Proof.Machine

/-- What an instruction does before it retires: no change to `pc`, `IR`, `SP`, `MAR`, `MDR`, `cycles`
or the draw counter, and memory changed by a store of `A` or of `SP`, or not at all. -/
def ExecuteEffect (s u : State) : Prop :=
  u.pc = s.pc ∧ u.ir = s.ir ∧ u.sp = s.sp ∧ u.cycles = s.cycles ∧ u.draws = s.draws ∧
    u.mar = s.mar ∧ u.mdr = s.mdr ∧
    (u.mem = s.mem ∨ (∃ rr, u.mem = (s.memWrite (s.wide rr) s.a).mem) ∨
      ∃ a16, u.mem = (s.memWrite16 a16 s.sp).mem)

theorem raiseError_fault {error : EngineError} {s : State} {f : Fault}
    (h : raiseError error s = .fault f) : f = .raised error s.drawStaging := by
  cases h; rfl

theorem raiseError_not_next (error : EngineError) (s t : State) : raiseError error s ≠ .next t := nofun

theorem raiseError_not_refused (error : EngineError) (s : State) (r : Refusal) :
    raiseError error s ≠ .refused r := nofun

theorem writeIncremented_ok {r : Half} {old : Byte} {n : Int} {s t : State}
    (h : s.setHalfBcd r n = .ok t) :
    writeIncremented r old n s = .next ((t.setIncFlags old n).retire 0 4) := by
  rw [writeIncremented, h]

theorem writeIncremented_error {r : Half} {old : Byte} {n : Int} {s : State} {e : EngineError}
    (h : s.setHalfBcd r n = .error e) : writeIncremented r old n s = raiseError e s := by
  rw [writeIncremented, h]

theorem writeDecremented_ok {r : Half} {old : Byte} {n : Int} {s t : State}
    (h : s.setHalfBcd r n = .ok t) :
    writeDecremented r old n s = .next ((t.setDecFlags old n).retire 0 4) := by
  rw [writeDecremented, h]

theorem writeDecremented_error {r : Half} {old : Byte} {n : Int} {s : State} {e : EngineError}
    (h : s.setHalfBcd r n = .error e) : writeDecremented r old n s = raiseError e s := by
  rw [writeDecremented, h]

/-- INC r either completes within 99, or raises EncodingError with the sum. -/
theorem incrementHalf_cases (r : Half) (s : State) :
    (bcdToDecimal (s.half r) < 99 ∧ ∃ t, s.setHalfBcd r (bcdToDecimal (s.half r) + 1) = .ok t ∧
        incrementHalf r s =
          .next ((t.setIncFlags (s.half r) (bcdToDecimal (s.half r) + 1)).retire 0 4)) ∨
      (99 ≤ bcdToDecimal (s.half r) ∧
        incrementHalf r s = raiseError (.encodingError (bcdToDecimal (s.half r) + 1)) s) := by
  obtain ⟨h, t, ht⟩ | ⟨h, hb⟩ := s.setHalfBcd_total r (bcdToDecimal (s.half r) + 1)
  · exact .inl ⟨by omega, t, ht, writeIncremented_ok ht⟩
  · exact .inr ⟨by omega, writeIncremented_error hb⟩

/-- DEC r either completes with a difference of 0 to 99, or raises EncodingError with it. -/
theorem decrementHalf_cases (r : Half) (s : State) :
    ((1 ≤ bcdToDecimal (s.half r) ∧ bcdToDecimal (s.half r) ≤ 100) ∧
        ∃ t, s.setHalfBcd r (bcdToDecimal (s.half r) - 1) = .ok t ∧
          decrementHalf r s =
            .next ((t.setDecFlags (s.half r) (bcdToDecimal (s.half r) - 1)).retire 0 4)) ∨
      ((bcdToDecimal (s.half r) = 0 ∨ 101 ≤ bcdToDecimal (s.half r)) ∧
        decrementHalf r s = raiseError (.encodingError (bcdToDecimal (s.half r) - 1)) s) := by
  obtain ⟨h, t, ht⟩ | ⟨h, hb⟩ := s.setHalfBcd_total r (bcdToDecimal (s.half r) - 1)
  · exact .inl ⟨by omega, t, ht, writeDecremented_ok ht⟩
  · exact .inr ⟨by omega, writeDecremented_error hb⟩

/-- What one instruction answers: it retires an `ExecuteEffect`, or it raises on the state it was given. -/
def ExecAnswer (s : State) (o : StepOutcome) : Prop :=
  (∃ u n c, o = .next (u.retire n c) ∧ n ≤ 2 ∧ 4 ≤ c ∧ c ≤ 20 ∧ ExecuteEffect s u) ∨
    ∃ e, o = raiseError e s ∧ e ≠ .boundsError

theorem ExecuteEffect.of_sameMem {s u : State} (h1 : u.pc = s.pc) (h2 : u.ir = s.ir)
    (h3 : u.sp = s.sp) (h4 : u.cycles = s.cycles) (h5 : u.draws = s.draws) (h6 : u.mar = s.mar)
    (h7 : u.mdr = s.mdr) (h8 : u.mem = s.mem) : ExecuteEffect s u :=
  ⟨h1, h2, h3, h4, h5, h6, h7, .inl h8⟩

theorem loadPairImmediate_answer (rr : Pair) (v : Word) (s : State) :
    ExecAnswer s (loadPairImmediate rr v s) :=
  .inl ⟨_, _, _, rfl, by decide, by decide, by decide, .of_sameMem (by simp) (by simp) (by simp) (by simp) (by simp) (by simp) (by simp) (by simp)⟩

theorem storeAccumulator_answer (rr : Pair) (s : State) : ExecAnswer s (storeAccumulator rr s) :=
  .inl ⟨_, _, _, rfl, by decide, by decide, by decide, rfl, rfl, rfl, rfl, rfl, rfl, rfl, .inr (.inl ⟨rr, rfl⟩)⟩

theorem execLdAtA16Sp_answer (a16 : Word) (s : State) : ExecAnswer s (execLdAtA16Sp a16 s) :=
  .inl ⟨_, _, _, rfl, by decide, by decide, by decide, rfl, rfl, rfl, rfl, rfl, rfl, rfl, .inr (.inr ⟨a16, rfl⟩)⟩

theorem loadHalfImmediate_answer (r : Half) (v : Byte) (s : State) :
    ExecAnswer s (loadHalfImmediate r v s) :=
  .inl ⟨_, _, _, rfl, by decide, by decide, by decide, .of_sameMem (by simp) (by simp) (by simp) (by simp) (by simp) (by simp) (by simp) (by simp)⟩

theorem incrementPair_answer (rr : Pair) (s : State) : ExecAnswer s (incrementPair rr s) :=
  .inl ⟨_, _, _, rfl, by decide, by decide, by decide, .of_sameMem (by simp) (by simp) (by simp) (by simp) (by simp) (by simp) (by simp) (by simp)⟩

theorem decrementPair_answer (rr : Pair) (s : State) : ExecAnswer s (decrementPair rr s) :=
  .inl ⟨_, _, _, rfl, by decide, by decide, by decide, .of_sameMem (by simp) (by simp) (by simp) (by simp) (by simp) (by simp) (by simp) (by simp)⟩

theorem incrementHalf_answer (r : Half) (s : State) : ExecAnswer s (incrementHalf r s) := by
  obtain ⟨-, t, ht, h⟩ | ⟨-, h⟩ := incrementHalf_cases r s
  · obtain ⟨-, -, rfl⟩ := State.setHalfBcd_ok ht
    exact .inl ⟨_, _, _, h, by decide, by decide, by decide, .of_sameMem (by simp) (by simp) (by simp) (by simp) (by simp) (by simp) (by simp) (by simp)⟩
  · exact .inr ⟨_, h, nofun⟩

theorem decrementHalf_answer (r : Half) (s : State) : ExecAnswer s (decrementHalf r s) := by
  obtain ⟨-, t, ht, h⟩ | ⟨-, h⟩ := decrementHalf_cases r s
  · obtain ⟨-, -, rfl⟩ := State.setHalfBcd_ok ht
    exact .inl ⟨_, _, _, h, by decide, by decide, by decide, .of_sameMem (by simp) (by simp) (by simp) (by simp) (by simp) (by simp) (by simp) (by simp)⟩
  · exact .inr ⟨_, h, nofun⟩

theorem raiseInvalidTarget_answer (s : State) : ExecAnswer s (raiseInvalidTarget s) :=
  .inr ⟨_, rfl, nofun⟩

theorem rotate_answer (s : State) (v : Byte) (out : Bool) :
    ExecAnswer s (.next (((s.setA v).setCarry out).retire 0 4)) :=
  .inl ⟨_, _, _, rfl, by decide, by decide, by decide, .of_sameMem rfl rfl rfl rfl rfl rfl rfl rfl⟩

theorem retireOnly_answer (s : State) : ExecAnswer s (.next (s.retire 0 4)) :=
  .inl ⟨_, _, _, rfl, by decide, by decide, by decide, .of_sameMem rfl rfl rfl rfl rfl rfl rfl rfl⟩

/-- Every instruction either retires an `ExecuteEffect` or raises a step error. -/
theorem exec_answer (i : Instr) (s : State) : ExecAnswer s (exec i s) := by
  cases i with
  | nop | unimpl => exact retireOnly_answer s
  | rlca | rrca => exact rotate_answer s _ _
  | ldBcD16 | ldDeD16 | ldHlD16 => exact loadPairImmediate_answer _ _ s
  | ldAtBcA | ldAtDeA | ldAtHlA => exact storeAccumulator_answer _ s
  | ldAtA16Sp => exact execLdAtA16Sp_answer _ s
  | ldBD8 | ldCD8 | ldDD8 | ldED8 | ldHD8 | ldLD8 => exact loadHalfImmediate_answer _ _ s
  | incBc | incDe | incHl => exact incrementPair_answer _ s
  | decBc | decDe | decHl => exact decrementPair_answer _ s
  | incB | incC | incD | incE | incH | incL => exact incrementHalf_answer _ s
  | decB | decC | decD | decE | decH | decL => exact decrementHalf_answer _ s
  | ldSpD16 | incSp | decSp | incA | decA | ldAD8 => exact raiseInvalidTarget_answer s

end Sys2Proof.Machine
end

