-- ==== Sys2Proof/Laws/Memory.lean ====
section
/-! SUPPORT. The laws of memory: the canonical form is kept by every operation, and a write sets its
cell and no other. -/

namespace Sys2Proof.Machine

theorem Memory.wfFrom_cons {lo k : Nat} {v : Byte} {m : Memory} :
    Memory.wfFrom lo ((k, v) :: m) = true ↔
      lo ≤ k ∧ k < Memory.cells ∧ v ≠ Memory.unwritten ∧ Memory.wfFrom (k + 1) m = true := by
  simp [Memory.wfFrom, and_assoc]

theorem Memory.wfFrom_mono {lo hi : Nat} {m : Memory} (h : lo ≤ hi) (hm : Memory.wfFrom hi m = true) :
    Memory.wfFrom lo m = true := by
  cases m with
  | nil => rfl
  | cons e m =>
    obtain ⟨h1, h2⟩ := Memory.wfFrom_cons.mp hm
    exact Memory.wfFrom_cons.mpr ⟨Nat.le_trans h h1, h2⟩

theorem Memory.read_below {lo a : Nat} {m : Memory} (hm : Memory.wfFrom lo m = true) (h : a < lo) :
    Memory.read m a = Memory.unwritten := by
  induction m generalizing lo with
  | nil => rfl
  | cons e m ih =>
    obtain ⟨h1, -, -, h2⟩ := Memory.wfFrom_cons.mp hm
    rw [Memory.read, if_neg (by omega)]
    exact ih h2 (by omega)

theorem Memory.cons_wfFrom {lo a : Nat} {v : Byte} {m : Memory} (hlo : lo ≤ a)
    (ha : a < Memory.cells) (hm : Memory.wfFrom (a + 1) m = true) :
    Memory.wfFrom lo (Memory.cons a v m) = true := by
  unfold Memory.cons
  split
  · exact Memory.wfFrom_mono (by omega) hm
  · rename_i hv; exact Memory.wfFrom_cons.mpr ⟨hlo, ha, hv, hm⟩

theorem Memory.write_wfFrom {lo a : Nat} {v : Byte} {m : Memory} (hlo : lo ≤ a)
    (ha : a < Memory.cells) (hm : Memory.wfFrom lo m = true) :
    Memory.wfFrom lo (Memory.write m a v) = true := by
  induction m generalizing lo with
  | nil => exact Memory.cons_wfFrom hlo ha rfl
  | cons e m ih =>
    obtain ⟨k, w⟩ := e
    obtain ⟨h1, h2, h3, h4⟩ := Memory.wfFrom_cons.mp hm
    rw [Memory.write]
    split
    · exact Memory.cons_wfFrom hlo ha (Memory.wfFrom_cons.mpr ⟨by omega, h2, h3, h4⟩)
    · split
      · subst a; exact Memory.cons_wfFrom hlo ha h4
      · exact Memory.wfFrom_cons.mpr ⟨h1, h2, h3, ih (by omega) h4⟩

/-- A write keeps the canonical form. -/
theorem Memory.write_wf {a : Nat} {v : Byte} {m : Memory} (ha : a < Memory.cells)
    (hm : m.wf = true) : (Memory.write m a v).wf = true :=
  Memory.write_wfFrom (Nat.zero_le a) ha hm

/-- A run of writes inside the memory keeps the canonical form. -/
theorem Memory.writeRun_wf {vs : List Byte} {start : Nat} {m : Memory}
    (h : start + vs.length ≤ Memory.cells) (hm : m.wf = true) :
    (Memory.writeRun m start vs).wf = true := by
  induction vs generalizing start m with
  | nil => exact hm
  | cons v vs ih =>
    rw [List.length_cons] at h
    exact ih (by omega) (Memory.write_wf (by omega) hm)

/-- A bulk load that succeeds keeps the canonical form. -/
theorem Memory.writeBytes_wf {vs : List Byte} {start : Nat} {m m' : Memory}
    (h : Memory.writeBytes m vs start = .ok m') (hm : m.wf = true) : m'.wf = true := by
  unfold Memory.writeBytes at h
  split at h
  · cases h
  · cases h; exact Memory.writeRun_wf (by omega) hm

/-- A single-cell store keeps the canonical form: every 16-bit address is a cell. -/
theorem State.memWrite_wf {s : State} {addr : Word} {v : Byte} (h : Memory.wf s.mem = true) :
    Memory.wf (s.memWrite addr v).mem = true := Memory.write_wf addr.isLt h

/-- A 16-bit store keeps the canonical form. -/
theorem State.memWrite16_wf {s : State} {addr v : Word} (h : Memory.wf s.mem = true) :
    Memory.wf (s.memWrite16 addr v).mem = true := State.memWrite_wf (State.memWrite_wf h)

/-- Laying bytes in memory keeps the canonical form. -/
theorem State.layBytes_wf {vs : List Byte} {s : State} {addr : Word} (h : Memory.wf s.mem = true) :
    Memory.wf (s.layBytes addr vs).mem = true := by
  induction vs generalizing s addr with
  | nil => exact h
  | cons v vs ih => exact ih (State.memWrite_wf h)

theorem Memory.read_cons_same {a : Nat} {v : Byte} {m : Memory}
    (hm : Memory.wfFrom (a + 1) m = true) : Memory.read (Memory.cons a v m) a = v := by
  unfold Memory.cons
  split
  · rename_i hv; rw [hv]; exact Memory.read_below hm (Nat.lt_succ_self a)
  · rw [Memory.read, if_pos rfl]

theorem Memory.read_cons_other {a b : Nat} {v : Byte} {m : Memory} (h : b ≠ a) :
    Memory.read (Memory.cons a v m) b = Memory.read m b := by
  unfold Memory.cons
  split
  · rfl
  · rw [Memory.read, if_neg (Ne.symm h)]

theorem Memory.read_write_same_from {lo a : Nat} {v : Byte} {m : Memory}
    (hm : Memory.wfFrom lo m = true) : Memory.read (Memory.write m a v) a = v := by
  induction m generalizing lo with
  | nil => exact Memory.read_cons_same rfl
  | cons e m ih =>
    obtain ⟨k, w⟩ := e
    obtain ⟨h1, h2, h3, h4⟩ := Memory.wfFrom_cons.mp hm
    rw [Memory.write]
    split
    · exact Memory.read_cons_same (Memory.wfFrom_cons.mpr ⟨by omega, h2, h3, h4⟩)
    · split
      · subst a; exact Memory.read_cons_same h4
      · rw [Memory.read, if_neg (by omega)]; exact ih h4

/-- Reading the cell just written gives the byte written. -/
theorem Memory.read_write_same {a : Nat} {v : Byte} {m : Memory} (hm : m.wf = true) :
    Memory.read (Memory.write m a v) a = v := Memory.read_write_same_from hm

/-- A write leaves every other cell as it was. -/
theorem Memory.read_write_other {a b : Nat} {v : Byte} {m : Memory} (h : b ≠ a) :
    Memory.read (Memory.write m a v) b = Memory.read m b := by
  induction m with
  | nil => exact Memory.read_cons_other h
  | cons e m ih =>
    obtain ⟨k, w⟩ := e
    rw [Memory.write]
    split
    · exact Memory.read_cons_other h
    · split
      · subst a
        rw [Memory.read_cons_other h, Memory.read, if_neg (Ne.symm h)]
      · rw [Memory.read, Memory.read, ih]

end Sys2Proof.Machine
end

