-- ==== Sys2Proof/Laws/PerInstr.lean ====
section
/-! SUPPORT. The statements made per instruction, one lemma for each constructor of `Instr`. -/

namespace Sys2Proof.Laws.EncodedBytes

/-- The encoding of a well-formed instruction has as many bytes as its first byte says
(30_encoding.md R96, R102). -/
def Statement (i : Instr) : Prop :=
  i.wellFormed = true → (encode i).length = opcodeLength ((encode i).headD 0)

theorem nop : Statement .nop := fun _ => rfl

theorem ldBcD16 (d16 : Word) : Statement (.ldBcD16 d16) := fun _ => rfl

theorem ldAtBcA : Statement .ldAtBcA := fun _ => rfl

theorem incBc : Statement .incBc := fun _ => rfl

theorem incB : Statement .incB := fun _ => rfl

theorem decB : Statement .decB := fun _ => rfl

theorem ldBD8 (d8 : Byte) : Statement (.ldBD8 d8) := fun _ => rfl

theorem rlca : Statement .rlca := fun _ => rfl

theorem ldAtA16Sp (a16 : Word) : Statement (.ldAtA16Sp a16) := fun _ => rfl

theorem decBc : Statement .decBc := fun _ => rfl

theorem incC : Statement .incC := fun _ => rfl

theorem decC : Statement .decC := fun _ => rfl

theorem ldCD8 (d8 : Byte) : Statement (.ldCD8 d8) := fun _ => rfl

theorem rrca : Statement .rrca := fun _ => rfl

theorem ldDeD16 (d16 : Word) : Statement (.ldDeD16 d16) := fun _ => rfl

theorem ldAtDeA : Statement .ldAtDeA := fun _ => rfl

theorem incDe : Statement .incDe := fun _ => rfl

theorem incD : Statement .incD := fun _ => rfl

theorem decD : Statement .decD := fun _ => rfl

theorem ldDD8 (d8 : Byte) : Statement (.ldDD8 d8) := fun _ => rfl

theorem decDe : Statement .decDe := fun _ => rfl

theorem incE : Statement .incE := fun _ => rfl

theorem decE : Statement .decE := fun _ => rfl

theorem ldED8 (d8 : Byte) : Statement (.ldED8 d8) := fun _ => rfl

theorem ldHlD16 (d16 : Word) : Statement (.ldHlD16 d16) := fun _ => rfl

theorem incHl : Statement .incHl := fun _ => rfl

theorem incH : Statement .incH := fun _ => rfl

theorem decH : Statement .decH := fun _ => rfl

theorem ldHD8 (d8 : Byte) : Statement (.ldHD8 d8) := fun _ => rfl

theorem decHl : Statement .decHl := fun _ => rfl

theorem incL : Statement .incL := fun _ => rfl

theorem decL : Statement .decL := fun _ => rfl

theorem ldLD8 (d8 : Byte) : Statement (.ldLD8 d8) := fun _ => rfl

theorem ldSpD16 : Statement .ldSpD16 := fun _ => rfl

theorem incSp : Statement .incSp := fun _ => rfl

theorem decSp : Statement .decSp := fun _ => rfl

theorem incA : Statement .incA := fun _ => rfl

theorem decA : Statement .decA := fun _ => rfl

theorem ldAD8 : Statement .ldAD8 := fun _ => rfl

theorem ldAtHlA : Statement .ldAtHlA := fun _ => rfl

theorem unimpl (opcode : Byte) : Statement (.unimpl opcode) := fun h => (opcodeLength_unimplemented h).symm

end Sys2Proof.Laws.EncodedBytes
end

