-- ==== Sys2Proof/Tests/Slice0.lean ====
section
/-! SUPPORT. Tests with expected results from the spec: the encodings of 30_encoding.md and the vectors
T<n> of 95_test_vectors.md, which is evidence and not rule; and a witness of the hypotheses of each
statement that has some. -/

namespace Sys2Proof.Tests

open Sys2Proof Sys2Proof.Machine Sys2Proof.Claims

/-! ### Well-formedness -/

/-- 0x00 has a row of its own, so it is no unimplemented opcode (30_encoding.md R100). -/
theorem test_wellFormed_refuses_defined_opcode : (Instr.unimpl 0x00).wellFormed = false := by decide

/-- 0x3C is a faulting slot, so it is no unimplemented opcode (30_encoding.md R99, R100). -/
theorem test_wellFormed_refuses_faulting_opcode : (Instr.unimpl 0x3C).wellFormed = false := by decide

theorem test_wellFormed_takes_unimplemented : (Instr.unimpl 0xD3).wellFormed = true := by decide

/-- 216 of the 256 bytes are unimplemented (30_encoding.md R100). -/
theorem test_unimplemented_count :
    ((List.range 256).filter fun n => isUnimplemented (BitVec.ofNat 8 n)).length = 216 := by
  decide +kernel

/-! ### Decoding: each constructor by bytes written out from 30_encoding.md R91 to R93, R95, R96, R99 -/

theorem test_decode_op : [0x00, 0x02, 0x12, 0x77, 0x07, 0x0F].map (decodeTableWord 8) =
    [some .nop, some .ldAtBcA, some .ldAtDeA, some .ldAtHlA, some .rlca, some .rrca] := by decide

theorem test_decode_pair_steps : [0x03, 0x13, 0x23, 0x0B, 0x1B, 0x2B].map (decodeTableWord 8) =
    [some .incBc, some .incDe, some .incHl, some .decBc, some .decDe, some .decHl] := by decide

theorem test_decode_half_increments : [0x04, 0x0C, 0x14, 0x1C, 0x24, 0x2C].map (decodeTableWord 8) =
    [some .incB, some .incC, some .incD, some .incE, some .incH, some .incL] := by decide

theorem test_decode_half_decrements : [0x05, 0x0D, 0x15, 0x1D, 0x25, 0x2D].map (decodeTableWord 8) =
    [some .decB, some .decC, some .decD, some .decE, some .decH, some .decL] := by decide

/-- Byte 0 the opcode, byte 1 `d8`. -/
theorem test_decode_half_loads :
    [0x4206, 0x990E, 0xFF16, 0x001E, 0xC026, 0x102E].map (decodeTableWord 16) =
    [some (.ldBD8 0x42), some (.ldCD8 0x99), some (.ldDD8 0xFF), some (.ldED8 0x00),
      some (.ldHD8 0xC0), some (.ldLD8 0x10)] := by decide

/-- Byte 0 the opcode, byte 1 bits 7:0 of the operand, byte 2 bits 15:8; the first is the source's own
example `[0x01, 0xCD, 0xAB]`. -/
theorem test_decode_words : [0xABCD01, 0x123411, 0xC00021, 0xC10008].map (decodeTableWord 24) =
    [some (.ldBcD16 0xABCD), some (.ldDeD16 0x1234), some (.ldHlD16 0xC000),
      some (.ldAtA16Sp 0xC100)] := by decide

theorem test_decode_faulting_slots : [0x31, 0x33, 0x3B, 0x3C, 0x3D, 0x3E].map (decodeTableWord 8) =
    [some .ldSpD16, some .incSp, some .decSp, some .incA, some .decA, some .ldAD8] := by decide

theorem test_decode_unimplemented : [0xD3, 0xCB, 0x22, 0x76, 0xFF].map (decodeTableWord 8) =
    [some (.unimpl 0xD3), some (.unimpl 0xCB), some (.unimpl 0x22), some (.unimpl 0x76),
      some (.unimpl 0xFF)] := by decide

theorem test_decode_rejects_no_bytes : decode [] = .error .noOpcode := by rfl

theorem test_decode_rejects_missing_operand : decode [0x01, 0xCD] = .error (.operandBytesMissing 0x01) := by
  rfl

/-! ### One step -/

/-- The reset state with memory and `pc`. -/
def stateAt (pc : Word) (mem : Memory) : State := { State.reset with pc := pc, mem := mem }

/-- The step completes in a state with a property. -/
def completesWith (s : State) (p : State → Bool) : Bool :=
  match step s with
  | .next t => p t
  | _ => false

/-- The step ends in an error and leaves a state with a property. -/
def raisesWith (s : State) (e : EngineError) (p : State → Bool) : Bool :=
  match step s with
  | .fault (.raised e' t) => decide (e' = e) && p t
  | _ => false

/-- T4. -/
theorem test_nop : completesWith State.reset (fun t =>
    t.pc = 0x0001 ∧ t.cycles = 4 ∧ t.ir = 0 ∧ t.sp = 0 ∧ t.wide .bc = 0) = true := by decide

/-- T11. -/
theorem test_nop_wraps_pc : completesWith (stateAt 0xFFFF []) (fun t => t.pc = 0x0000) = true := by decide

/-- T12. -/
theorem test_unimpl : completesWith { stateAt 0x0200 [(0x0200, 0xD3)] with cycles := 100 } (fun t =>
    t.pc = 0x0201 ∧ t.cycles = 104 ∧ t.ir = 0x00D3) = true := by decide

/-- T5. -/
theorem test_ldBcD16 : completesWith (stateAt 0 [(0, 0x01), (1, 0xCD), (2, 0xAB)]) (fun t =>
    t.wide .bc = 0xABCD ∧ t.bc = ⟨0xAB, 0xCD⟩ ∧ t.pc = 3 ∧ t.cycles = 12 ∧ t.ir = 1) = true := by decide

/-- T21. -/
theorem test_ldDeD16 : completesWith (stateAt 0x0200 [(0x0200, 0x11), (0x0201, 0x34), (0x0202, 0x12)])
    (fun t => t.de = ⟨0x12, 0x34⟩ ∧ t.pc = 0x0203 ∧ t.cycles = 12) = true := by decide

/-- T23: the operand's high byte comes from 0x0000. -/
theorem test_ldHlD16_wraps : completesWith (stateAt 0xFFFE [(0, 0x56), (0xFFFE, 0x21), (0xFFFF, 0x78)])
    (fun t => t.wide .hl = 0x5678 ∧ t.pc = 0x0001) = true := by decide

/-- T30. -/
theorem test_ldAtBcA : completesWith
    { stateAt 0x0010 [(0x0010, 0x02)] with a := 0x5A, bc := ⟨0xC0, 0x00⟩ } (fun t =>
    t.memRead 0xC000 = 0x5A ∧ t.bc = ⟨0xC0, 0x00⟩ ∧ t.pc = 0x0011 ∧ t.cycles = 8) = true := by decide

/-- T31. -/
theorem test_ldAtDeA : completesWith { stateAt 0 [(0, 0x12)] with a := 0xFF, de := ⟨0xFF, 0xFF⟩ }
    (fun t => t.memRead 0xFFFF = 0xFF ∧ t.pc = 1) = true := by decide

/-- T33: a store of 0x00 over its own opcode byte. -/
theorem test_ldAtBcA_over_itself : completesWith (stateAt 0 [(0, 0x02)]) (fun t =>
    t.mem = [] ∧ t.pc = 1 ∧ t.cycles = 8) = true := by decide

/-- T32. -/
theorem test_ldAtHlA : completesWith
    { stateAt 0x0150 [(0x0150, 0x77)] with a := 0x01, hl := ⟨0x80, 0x00⟩ } (fun t =>
    t.memRead 0x8000 = 0x01 ∧ t.wide .hl = 0x8000 ∧ t.pc = 0x0151) = true := by decide

/-- T40. -/
theorem test_ldBD8 : completesWith (stateAt 0 [(0, 0x06), (1, 0x42)]) (fun t =>
    t.wide .bc = 0x4200 ∧ t.pc = 2 ∧ t.cycles = 8) = true := by decide

/-- T41. -/
theorem test_ldCD8 : completesWith { stateAt 2 [(2, 0x0E), (3, 0x99)] with bc := ⟨0x42, 0x00⟩ } (fun t =>
    t.wide .bc = 0x4299 ∧ t.pc = 4) = true := by decide

/-- T42: raw, no error for 0xFF. -/
theorem test_ldDD8 : completesWith (stateAt 0x0100 [(0x0100, 0x16), (0x0101, 0xFF)]) (fun t =>
    t.wide .de = 0xFF00 ∧ t.pc = 0x0102) = true := by decide

/-- T43: a zero does not set `fZ`. -/
theorem test_ldED8 : completesWith { stateAt 0x0100 [(0x0100, 0x1E)] with de := ⟨0x12, 0xFF⟩ } (fun t =>
    t.wide .de = 0x1200 ∧ t.fZ = false ∧ t.pc = 0x0102) = true := by decide

/-- T44. -/
theorem test_ldHD8 : completesWith (stateAt 0 [(0, 0x26), (1, 0xC0)]) (fun t => t.wide .hl = 0xC000) = true := by
  decide

/-- T45. -/
theorem test_ldLD8 : completesWith { stateAt 2 [(2, 0x2E), (3, 0x10)] with hl := ⟨0xC0, 0x00⟩ } (fun t =>
    t.wide .hl = 0xC010) = true := by decide

/-- T51: the high byte goes to 0x0000, over the opcode. -/
theorem test_ldAtA16Sp_wraps : completesWith
    { stateAt 0 [(0, 0x08), (1, 0xFF), (2, 0xFF)] with sp := 0x1234 } (fun t =>
    t.memRead 0xFFFF = 0x34 ∧ t.memRead 0x0000 = 0x12 ∧ t.sp = 0x1234 ∧ t.pc = 3 ∧ t.cycles = 20) = true := by
  decide

/-- T54: the store falls on the instruction's own operand bytes. -/
theorem test_ldAtA16Sp_over_itself : completesWith { stateAt 0 [(0, 0x08), (1, 0x01)] with sp := 0xA55A }
    (fun t => t.mem = [(0, 0x08), (1, 0x5A), (2, 0xA5)] ∧ t.pc = 3) = true := by decide

/-- T63: binary, not BCD. -/
theorem test_incBc : completesWith { stateAt 0 [(0, 0x03)] with bc := ⟨0x00, 0x99⟩ } (fun t =>
    t.wide .bc = 0x009A ∧ t.cycles = 8) = true := by decide

/-- T61. -/
theorem test_incDe : completesWith { stateAt 0 [(0, 0x13)] with de := ⟨0x00, 0xFF⟩ } (fun t =>
    t.de = ⟨0x01, 0x00⟩) = true := by decide

/-- T62. -/
theorem test_incHl : completesWith { stateAt 0 [(0, 0x23)] with hl := ⟨0xFF, 0xFF⟩ } (fun t =>
    t.wide .hl = 0 ∧ t.fZ = false) = true := by decide

/-- T64. -/
theorem test_decBc : completesWith (stateAt 0 [(0, 0x0B)]) (fun t =>
    t.wide .bc = 0xFFFF ∧ t.fN = false ∧ t.cycles = 8) = true := by decide

/-- T65. -/
theorem test_decDe : completesWith { stateAt 0 [(0, 0x1B)] with de := ⟨0x01, 0x00⟩ } (fun t =>
    t.wide .de = 0x00FF) = true := by decide

/-- T66. -/
theorem test_decHl : completesWith { stateAt 0 [(0, 0x2B)] with hl := ⟨0x00, 0x01⟩ } (fun t =>
    t.wide .hl = 0 ∧ t.fZ = false ∧ t.fN = false) = true := by decide

/-- T86. -/
theorem test_incB : completesWith { stateAt 0 [(0, 0x04)] with bc := ⟨0x09, 0x77⟩, fC := true } (fun t =>
    t.bc = ⟨0x10, 0x77⟩ ∧ t.fZ = false ∧ t.fN = false ∧ t.fH = true ∧ t.fC = true ∧ t.cycles = 4) = true := by
  decide

/-- T87. -/
theorem test_incC_raises : raisesWith { stateAt 0 [(0, 0x0C)] with bc := ⟨0x00, 0x99⟩ }
    (.encodingError 100) (fun t =>
    t.wide .bc = 0x0099 ∧ t.pc = 1 ∧ t.ir = 0x000C ∧ t.cycles = 0) = true := by decide

/-- R160, second example. -/
theorem test_incC : completesWith { stateAt 0 [(0, 0x0C)] with bc := ⟨0x00, 0x98⟩ } (fun t =>
    t.wide .bc = 0x0099 ∧ t.fH = false) = true := by decide

/-- R161. -/
theorem test_incD : completesWith (stateAt 0 [(0, 0x14)]) (fun t => t.wide .de = 0x0100 ∧ t.fZ = false) = true := by
  decide

/-- T73. -/
theorem test_incE : completesWith { stateAt 0 [(0, 0x1C)] with de := ⟨0x00, 0x29⟩ } (fun t =>
    t.de = ⟨0x00, 0x30⟩ ∧ t.fH = true) = true := by decide

/-- T77: not valid BCD, decoded as 15. -/
theorem test_incH : completesWith { stateAt 0 [(0, 0x24)] with hl := ⟨0x0F, 0x00⟩ } (fun t =>
    t.hl = ⟨0x16, 0x00⟩ ∧ t.fH = false) = true := by decide

/-- T74. -/
theorem test_incL : completesWith { stateAt 0 [(0, 0x2C)] with hl := ⟨0x00, 0x89⟩, fN := true } (fun t =>
    t.hl = ⟨0x00, 0x90⟩ ∧ t.fN = false ∧ t.fH = true) = true := by decide

/-- T83. -/
theorem test_incL_raises : raisesWith { stateAt 0 [(0, 0x2C)] with hl := ⟨0x00, 0xFF⟩ }
    (.encodingError 166) (fun t => t.hl = ⟨0x00, 0xFF⟩) = true := by decide

/-- T91. -/
theorem test_decB : completesWith { stateAt 0 [(0, 0x05)] with bc := ⟨0x10, 0x00⟩ } (fun t =>
    t.bc = ⟨0x09, 0x00⟩ ∧ t.fZ = false ∧ t.fN = true ∧ t.fH = true ∧ t.cycles = 4) = true := by decide

/-- T90. -/
theorem test_decC : completesWith { stateAt 0 [(0, 0x0D)] with bc := ⟨0x00, 0x01⟩ } (fun t =>
    t.wide .bc = 0 ∧ t.fZ = true ∧ t.fN = true ∧ t.fH = false) = true := by decide

/-- T103. -/
theorem test_decD_raises : raisesWith (stateAt 0 [(0, 0x15)]) (.encodingError (-1)) (fun t =>
    t.wide .de = 0 ∧ t.fN = false ∧ t.pc = 1 ∧ t.cycles = 0 ∧ t.ir = 0x0015) = true := by decide

/-- T95. -/
theorem test_decD : completesWith { stateAt 0 [(0, 0x15)] with de := ⟨0x99, 0x00⟩ } (fun t =>
    t.de = ⟨0x98, 0x00⟩ ∧ t.fH = false) = true := by decide

/-- T94. -/
theorem test_decE : completesWith { stateAt 0 [(0, 0x1D)] with de := ⟨0x00, 0x42⟩ } (fun t =>
    t.de = ⟨0x00, 0x41⟩ ∧ t.fN = true ∧ t.fH = false) = true := by decide

/-- T98: 0xA0 decodes to 100. -/
theorem test_decH : completesWith { stateAt 0 [(0, 0x25)] with hl := ⟨0xA0, 0x00⟩ } (fun t =>
    t.hl = ⟨0x99, 0x00⟩ ∧ t.fH = true) = true := by decide

/-- T101: 0xA1 decodes to 101. -/
theorem test_decH_raises : raisesWith { stateAt 0 [(0, 0x25)] with hl := ⟨0xA1, 0x00⟩ }
    (.encodingError 100) (fun t => t.hl = ⟨0xA1, 0x00⟩) = true := by decide

/-- T93. -/
theorem test_decL : completesWith { stateAt 0 [(0, 0x2D)] with hl := ⟨0x00, 0x50⟩ } (fun t =>
    t.hl = ⟨0x00, 0x49⟩ ∧ t.fH = true) = true := by decide

/-- T123. -/
theorem test_rlca : completesWith
    { stateAt 0 [(0, 0x07)] with a := 0x85, fZ := true, fN := true, fH := true } (fun t =>
    t.a = 0x0B ∧ t.fC = true ∧ t.fZ = true ∧ t.fN = true ∧ t.fH = true ∧ t.cycles = 4) = true := by decide

/-- T122: the old carry is no input. -/
theorem test_rlca_carry : completesWith { stateAt 0 [(0, 0x07)] with fC := true } (fun t =>
    t.a = 0x00 ∧ t.fC = false ∧ t.fZ = false) = true := by decide

/-- T116. -/
theorem test_rrca : completesWith { stateAt 0 [(0, 0x0F)] with a := 0x3B } (fun t =>
    t.a = 0x9D ∧ t.fC = true) = true := by decide

/-- T130. -/
theorem test_ldSpD16 : raisesWith (stateAt 0 [(0, 0x31), (1, 0xFE), (2, 0xFF)])
    (.invalidRegisterTarget 0x31) (fun t => t.sp = 0 ∧ t.pc = 1 ∧ t.cycles = 0 ∧ t.ir = 0x0031) = true := by
  decide

/-- T67. -/
theorem test_incSp : raisesWith { stateAt 0x0040 [(0x0040, 0x33)] with sp := 0x1000 }
    (.invalidRegisterTarget 0x33) (fun t => t.sp = 0x1000 ∧ t.pc = 0x0041) = true := by decide

/-- T68. -/
theorem test_decSp : raisesWith (stateAt 0x0040 [(0x0040, 0x3B)])
    (.invalidRegisterTarget 0x3B) (fun t => t.sp = 0 ∧ t.pc = 0x0041) = true := by decide

/-- T136: the value of `A` is never decoded. -/
theorem test_incA : raisesWith { stateAt 0 [(0, 0x3C)] with a := 0xFF }
    (.invalidRegisterTarget 0x3C) (fun t => t.a = 0xFF ∧ t.pc = 1) = true := by decide

/-- T134. -/
theorem test_decA : raisesWith { stateAt 0 [(0, 0x3D)] with a := 0x01 }
    (.invalidRegisterTarget 0x3D) (fun t => t.a = 0x01 ∧ t.fN = false) = true := by decide

/-- T135. -/
theorem test_ldAD8 : raisesWith (stateAt 0 [(0, 0x3E), (1, 0x5A)])
    (.invalidRegisterTarget 0x3E) (fun t => t.a = 0 ∧ t.pc = 1) = true := by decide

/-! ### The resolver and the host's transactions -/

/-- T146 and T150. -/
theorem test_resolver : ({ stateAt 0x0100 [(0, 0x3E)] with mem := [(0, 0x3E)] }.resolve .unsignedEight = 0x003E) ∧
    (stateAt 5 [(5, 0xFB)]).resolve .signedEight = 0xFFFB := by decide

/-- T154 and T155. -/
theorem test_registerDirect :
    ({ stateAt 0 [(0x12, 0x22), (0x34, 0x11)] with bc := ⟨0x12, 0x34⟩ }.resolve (.registerDirect .bc false) = 0x0011) ∧
    ({ stateAt 0 [(0x12, 0x22), (0x34, 0x11)] with bc := ⟨0x12, 0x34⟩ }.resolve (.registerDirect .bc true) = 0x0022) := by
  decide

/-- T7. -/
theorem test_load_bounds : (transact (.load [0x11, 0x22] 65535) State.reset).1 = .err .boundsError ∧
    (transact (.load [0x11, 0x22] 65535) State.reset).2.mem = [] ∧
    (transact (.load [0x11] 65535) State.reset).2.mem = [(65535, 0x11)] := by decide

/-- T170 and T171. -/
theorem test_bcd_write :
    (transactAll [.setHighBcd .bc 12, .setLowBcd .bc 34] State.reset).wide .bc = 0x1234 ∧
    (transact (.setLowBcd .bc 100) State.reset).1 = .err (.encodingError 100) := by decide

/-- T172. -/
theorem test_toInt : (RegPair.ofWide 0x0A0B).toInt = 1011 := by decide

/-- T184: the hardware accepts a STEP after an error. -/
theorem test_step_after_error :
    (transactAll [.load [0x3C, 0x00] 0, .step, .step] State.reset).pc = 2 ∧
    (transactAll [.load [0x3C, 0x00] 0, .step, .step] State.reset).cycles = 4 := by decide

/-- T186: Fetch overwrites a poked `IR` before Decode reads it. -/
theorem test_poked_ir : (transact .step (transact (.pokeWord .ir 0xFF3C) State.reset).2).1 = .ok := by decide

/-- What the host asks: the word's instruction is decoded and run first after reset. -/
theorem test_withFetchWord : completesWith (State.reset.withFetchWord 24 0xABCD01) (fun t =>
    t.wide .bc = 0xABCD ∧ t.pc = 3) = true := by decide

/-! ### The hypotheses of the statements are met -/

theorem witness_canonical_memory : Memory.wf State.reset.mem = true ∧
    Memory.wf [(0, 0x01), (0xFFFF, 0xFF)] = true := by decide

theorem witness_BulkLoad_refused : 65536 < 65535 + [0x11, 0x22].length := by decide

theorem witness_BulkLoad_taken : 65535 + [0x11].length ≤ 65536 := by decide

theorem witness_BcdRoundTrip : (0 : Int) ≤ 99 ∧ (99 : Int) ≤ 99 ∧
    ((0x99#8) >>> 4).toNat ≤ 9 ∧ (0x99#8 &&& 0x0F#8).toNat ≤ 9 := by decide

theorem witness_BcdWrite : ((-1 : Int) < 0 ∨ 99 < (-1 : Int)) ∧ ((100 : Int) < 0 ∨ 99 < (100 : Int)) ∧
    ((0 : Int) ≤ 0 ∧ (0 : Int) ≤ 99) ∧ ((0 : Int) ≤ 99 ∧ (99 : Int) ≤ 99) := by decide

theorem witness_PairToInt : highNibble 0x99 ≤ 9 ∧ lowNibble 0x99 ≤ 9 := by decide

theorem witness_StepRunsTheDecodedInstruction : ∃ (s : State) (rest : List Byte),
    decode [s.memRead s.pc, s.memRead (s.pc + 1), s.memRead (s.pc + 2)] = .ok (.ldBcD16 0xABCD, rest) :=
  ⟨stateAt 0 [(0, 0x01), (1, 0xCD), (2, 0xAB)], [], rfl⟩

theorem witness_Operands : (∃ s : State, s.opcode = (encode (ldHalfD8 .l 0)).headD 0) ∧
    (∃ s : State, s.opcode = (encode (ldPairD16 .hl 0)).headD 0) ∧ ∃ s : State, s.opcode = 0x08#8 :=
  ⟨⟨{ State.reset with ir := 0x002E }, by decide⟩, ⟨{ State.reset with ir := 0x0021 }, by decide⟩,
    ⟨{ State.reset with ir := 0x0008 }, by decide⟩⟩

theorem witness_wellFormed : (Instr.unimpl 0xFF).wellFormed = true ∧ (Instr.ldBcD16 0xFFFF).wellFormed = true := by
  decide

theorem witness_decoded : decode [0x01, 0xCD, 0xAB, 0x00] = .ok (.ldBcD16 0xABCD, [0x00]) := by rfl

theorem witness_ImmediateSixteen : (stateAt 1 [(1, 0xCD), (2, 0xAB)]).memRead 1 = 0xCD ∧
    (stateAt 1 [(1, 0xCD), (2, 0xAB)]).memRead 2 = 0xAB := by decide

theorem witness_StoreIsSeen : ∃ s t : State, Memory.wf s.mem = true ∧
    exec (ldAtPairA .hl) s = .next t ∧ s.wide .hl = t.pc :=
  ⟨{ stateAt 1 [(0, 0x77)] with a := 0x77, hl := ⟨0x00, 0x01⟩ }, _, by decide, rfl, by decide⟩

theorem witness_IncrementHalf : bcdToDecimal ({ State.reset with bc := ⟨0x98, 0x00⟩ }.half .b) < 99 ∧
    0x99 ≤ ({ State.reset with bc := ⟨0x99, 0x00⟩ }.half .b).toNat := by decide

theorem witness_DecrementHalf : (1 ≤ bcdToDecimal 0x01 ∧ bcdToDecimal 0x01 ≤ 100) ∧
    (1 ≤ bcdToDecimal 0xA0 ∧ bcdToDecimal 0xA0 ≤ 100) := by decide

theorem witness_DecrementHalf_raises : bcdToDecimal 0x00 = 0 ∧ 101 ≤ bcdToDecimal 0x9B ∧
    101 ≤ bcdToDecimal 0x9F ∧ 101 ≤ bcdToDecimal 0xA1 := by decide

theorem witness_RotateUndo : ∃ s t u : State, exec .rlca s = .next t ∧ exec .rrca t = .next u ∧ s.a = 0x85 :=
  ⟨{ State.reset with a := 0x85 }, _, _, rfl, rfl, rfl⟩

theorem witness_FaultingSlots : Instr.ldAD8 ∈ faultingSlots := by decide

theorem witness_error : ∃ (s t : State) (e : EngineError), step s = .fault (.raised e t) :=
  ⟨stateAt 0 [(0, 0x3C)], _, _, rfl⟩

theorem witness_HostGoesOn : ∃ (s t u : State) (e : EngineError),
    step s = .fault (.raised e t) ∧ step t = .next u := ⟨stateAt 0 [(0, 0x3C)], _, _, _, rfl, rfl⟩

theorem witness_completed_step : ∃ s t : State, step s = .next t ∧ s.memRead s.pc = 0x08 :=
  ⟨stateAt 0xFFFF [(0xFFFF, 0x08)], _, rfl, by decide⟩

theorem witness_OnlyTheAccessMatrixIsWritten : ∃ (i : Instr) (s t : State), exec i s = .next t ∧
    ¬ isRotate i ∧ ¬ writesDigitFlags i :=
  ⟨.nop, State.reset, _, rfl, (by rintro (h | h) <;> cases h),
    (by rintro ⟨r, h | h⟩ <;> cases r <;> cases h)⟩

theorem witness_StepKeepsTheInvariant : (stateAt 0 [(0, 0x02)]).Inv := by
  unfold State.Inv; decide

theorem witness_Runs : ∃ s t : State, Reaches s t ∧ s.a = 0x00#8 ∧ s.Inv ∧ s.cycles < t.cycles :=
  ⟨State.reset, _, .tail (.refl _) rfl, rfl, by unfold State.Inv; decide, by decide⟩

theorem witness_Transactions : Transaction.reset ∉ [Transaction.step, .load [0x00] 0] := by decide

/-- 93_implementation_defined.md U6: a counter of 3 bits at 6 wraps when NOP adds 4. -/
theorem test_cycles_width : (match stepWith { State.reset with cycles := 6 } (.bits 3) with
    | .next t => t.cycles
    | _ => 0) = 2 := by decide

theorem witness_LoadedInstruction : ∃ (s t : State) (i : Instr), Memory.wf s.mem = true ∧
    i.wellFormed = true ∧ s.pc.toNat + (encode i).length ≤ 65536 ∧
    transact (.load (encode i) s.pc.toNat) s = (.ok, t) :=
  ⟨stateAt 0xFFFD [], _, .ldBcD16 0xABCD, by decide, by decide, by decide, rfl⟩

end Sys2Proof.Tests
end

section
/-! PROOFS. The family of 10_state.md: pairs and halves (R24, R25), the BCD unit and its host ports
(R33, R35, R36). -/

namespace Sys2Proof.Machine

/-! ### Pairs and halves: writing, reading back, restoring -/

@[simp] theorem State.setPair_half_highHalf (s : State) (rr : Pair) (p : RegPair) :
    (s.setPair rr p).half (highHalf rr) = p.high := by cases rr <;> rfl

@[simp] theorem State.setPair_half_lowHalf (s : State) (rr : Pair) (p : RegPair) :
    (s.setPair rr p).half (lowHalf rr) = p.low := by cases rr <;> rfl

@[simp] theorem State.setPair_setPair_same (s : State) (rr : Pair) (p q : RegPair) :
    (s.setPair rr p).setPair rr q = s.setPair rr q := by cases rr <;> rfl

@[simp] theorem State.setPair_pair_self (s : State) (rr : Pair) : s.setPair rr (s.pair rr) = s := by
  cases rr <;> rfl

@[simp] theorem State.setHalf_setHalf_same (s : State) (r : Half) (v w : Byte) :
    (s.setHalf r v).setHalf r w = s.setHalf r w := by cases r <;> rfl

@[simp] theorem State.setHalf_half_self (s : State) (r : Half) : s.setHalf r (s.half r) = s := by
  cases r <;> rfl

/-- Writing the high half of a pair replaces the pair by one with the same low half (R25). -/
theorem State.setHalf_highHalf (s : State) (rr : Pair) (v : Byte) :
    s.setHalf (highHalf rr) v = s.setPair rr ⟨v, (s.pair rr).low⟩ := by cases rr <;> rfl

/-- Writing the low half of a pair replaces the pair by one with the same high half (R25). -/
theorem State.setHalf_lowHalf (s : State) (rr : Pair) (v : Byte) :
    s.setHalf (lowHalf rr) v = s.setPair rr ⟨(s.pair rr).high, v⟩ := by cases rr <;> rfl

/-! ### The nibbles of a byte and the decimal value they stand for -/

/-- `b[7:4]` as a shift. -/
theorem shiftRight_four_toNat (b : Byte) : (b >>> 4).toNat = highNibble b := by
  rw [BitVec.toNat_ushiftRight, Nat.shiftRight_eq_div_pow, highNibble]

/-- `b[3:0]` as a mask: `0x0F` is `2 ^ 4 - 1`. -/
theorem and_lowMask_toNat (b : Byte) : (b &&& 0x0F#8).toNat = lowNibble b :=
  calc (b &&& 0x0F#8).toNat
    _ = b.toNat &&& (2 ^ 4 - 1) := BitVec.toNat_and ..
    _ = lowNibble b := Nat.and_two_pow_sub_one_eq_mod ..

theorem bcdToDecimal_le (b : Byte) : bcdToDecimal b ≤ 165 := by
  have := highNibble_le b; have := lowNibble_le b
  unfold bcdToDecimal; omega

/-- A valid BCD byte stands for a number of two decimal digits. -/
theorem bcdToDecimal_le_of_digits {b : Byte} (hi : highNibble b ≤ 9) (lo : lowNibble b ≤ 9) :
    bcdToDecimal b ≤ 99 := by
  unfold bcdToDecimal; omega

/-- The byte the conversion answers holds the two decimal digits in its nibbles (R34). -/
theorem decimalToBcd_nibbles {d : Int} {b : Byte} (h : decimalToBcd d = some b) :
    highNibble b = d.toNat / 10 ∧ lowNibble b = d.toNat % 10 := by
  by_cases hd : 0 ≤ d ∧ d ≤ 99
  · rw [decimalToBcd_inRange hd.1 hd.2] at h
    cases h
    have hdigit : d.toNat / 10 < 10 := by omega
    have hbyte : d.toNat / 10 * 16 + d.toNat % 10 < 2 ^ 8 := by omega
    rw [highNibble, lowNibble, BitVec.toNat_ofNat, Nat.mod_eq_of_lt hdigit, Nat.mod_eq_of_lt hbyte]
    omega
  · rw [decimalToBcd_outOfRange (by omega)] at h
    cases h

/-! ### The BCD write ports of the host (R35, R241) -/

theorem bcdTransaction_of_some (s : State) (r : Half) {d : Int} {b : Byte}
    (h : decimalToBcd d = some b) : bcdTransaction s r d = (.ok, s.setHalf r b) := by
  rw [bcdTransaction, State.setHalfBcd, h]

theorem bcdTransaction_outOfRange (s : State) (r : Half) {d : Int} (h : d < 0 ∨ 99 < d) :
    bcdTransaction s r d = (.err (.encodingError d), s) := by
  rw [bcdTransaction, s.setHalfBcd_outOfRange r h]

end Sys2Proof.Machine

namespace Sys2Proof.Proofs

open Sys2Proof Sys2Proof.Machine Sys2Proof.Claims

/-- Settles O6: the halves of `RegPair.ofWide v` are the bytes of `v`, and the last write of a pair
is the one that stays. -/
theorem wideWriteSetsBothHalves : Obligations.WideWriteSetsBothHalves := by
  intro s rr v
  rw [State.setWide, State.setPair_half_highHalf, State.setPair_half_lowHalf]
  exact ⟨highByte_toNat v, lowByte_toNat v,
    by rw [State.setPair_setPair_same, State.setPair_pair_self]⟩

/-- Settles O8: a half write is seen at that half alone, and the last write of a half is the one
that stays. -/
theorem halfWriteIsRawAndAlone : Obligations.HalfWriteIsRawAndAlone := fun s r v =>
  ⟨s.setHalf_half_same r v, fun q => s.setHalf_half_other r q v,
    by rw [State.setHalf_setHalf_same, State.setHalf_half_self]⟩

/-- Settles O9: shift and mask are the model's nibbles. -/
theorem bcdToDecimalIsTotal : Obligations.BcdToDecimalIsTotal := by
  intro b
  rw [shiftRight_four_toNat, and_lowMask_toNat]
  exact ⟨rfl, bcdToDecimal_le b⟩

/-- Settles O11: out of range both ports fail with the value; in range both write the byte whose
nibbles are the digits. -/
theorem bcdWriteFailsOutOfRange : Obligations.BcdWriteFailsOutOfRange := by
  intro s rr d
  constructor
  · intro h
    exact ⟨bcdTransaction_outOfRange s _ h, bcdTransaction_outOfRange s _ h⟩
  · rintro ⟨h0, h99⟩
    have hb := decimalToBcd_inRange h0 h99
    obtain ⟨hhi, hlo⟩ := decimalToBcd_nibbles hb
    refine ⟨_, (shiftRight_four_toNat _).trans hhi, (and_lowMask_toNat _).trans hlo, ?_, ?_⟩
    · rw [← State.setHalf_highHalf]
      exact bcdTransaction_of_some s _ hb
    · rw [← State.setHalf_lowHalf]
      exact bcdTransaction_of_some s _ hb

/-- Settles O12: the pair is its two halves, and the bounds are those of `bcdToDecimal` on each. -/
theorem pairToIntFormula : Obligations.PairToIntFormula := by
  intro s rr
  refine ⟨?_, ?_, fun hhi hlo lhi llo => ?_⟩
  · rw [transact, State.pair_eq_halves, RegPair.toInt]
  · have := bcdToDecimal_le (s.pair rr).high
    have := bcdToDecimal_le (s.pair rr).low
    rw [RegPair.toInt]; omega
  · have := bcdToDecimal_le_of_digits hhi hlo
    have := bcdToDecimal_le_of_digits lhi llo
    rw [RegPair.toInt]; omega

end Sys2Proof.Proofs
end

section
/-! PROOFS. The family of 20_memory.md: the single-cell write (R63) and the bulk load (R80). -/

namespace Sys2Proof.Machine

/-! ### A single-cell write, read at its address and at another (R62, R63) -/

theorem State.memRead_memWrite_same {s : State} (addr : Word) (v : Byte)
    (h : Memory.wf s.mem = true) : (s.memWrite addr v).memRead addr = v :=
  Memory.read_write_same h

theorem State.memRead_memWrite_other (s : State) {addr x : Word} (v : Byte) (h : x ≠ addr) :
    (s.memWrite addr v).memRead x = s.memRead x :=
  Memory.read_write_other fun heq => h (BitVec.eq_of_toNat_eq heq)

/-! ### A run of cells, read outside it and inside it (R80) -/

theorem Memory.read_writeRun_outside {vs : List Byte} {start a : Nat} {m : Memory}
    (h : a < start ∨ start + vs.length ≤ a) :
    Memory.read (Memory.writeRun m start vs) a = Memory.read m a := by
  induction vs generalizing start m with
  | nil => rfl
  | cons v vs ih =>
    rw [List.length_cons] at h
    rw [Memory.writeRun, ih (by omega), Memory.read_write_other (by omega)]

theorem Memory.read_writeRun_inside {vs : List Byte} {start : Nat} {m : Memory} (hm : m.wf = true)
    (hend : start + vs.length ≤ Memory.cells) {i : Nat} (hi : i < vs.length) :
    Memory.read (Memory.writeRun m start vs) (start + i) = vs[i] := by
  induction vs generalizing start m i with
  | nil => exact absurd hi (Nat.not_lt_zero i)
  | cons v vs ih =>
    rw [List.length_cons] at hend
    rw [Memory.writeRun]
    cases i with
    | zero =>
      -- the cells written after the first all lie above it
      exact (Memory.read_writeRun_outside (.inl (Nat.lt_add_one start))).trans
        (Memory.read_write_same hm)
    | succ i =>
      have hm' : (Memory.write m start v).wf = true := Memory.write_wf (by omega) hm
      have haddr : start + (i + 1) = start + 1 + i := by omega
      rw [haddr]
      exact ih hm' (by omega) (Nat.lt_of_succ_lt_succ hi)

/-! ### The LOAD transaction, by whether the run passes the last cell (R80, R204) -/

theorem loadTransaction_pastEnd (s : State) {vs : List Byte} {start : Nat}
    (h : Memory.cells < start + vs.length) :
    loadTransaction s vs start = (.err .boundsError, s) := by
  rw [loadTransaction, Memory.writeBytes, if_pos h]

theorem loadTransaction_inside (s : State) {vs : List Byte} {start : Nat}
    (h : start + vs.length ≤ Memory.cells) :
    loadTransaction s vs start = (.ok, { s with mem := Memory.writeRun s.mem start vs }) := by
  rw [loadTransaction, Memory.writeBytes, if_neg (Nat.not_lt.mpr h)]

end Sys2Proof.Machine

namespace Sys2Proof.Proofs

open Sys2Proof Sys2Proof.Machine Sys2Proof.Claims

/-- Settles O1: a write is seen at its own address alone, and it is an update of `mem`. -/
theorem cellWriteSetsOneCell : Obligations.CellWriteSetsOneCell := fun s addr v hwf =>
  ⟨State.memRead_memWrite_same addr v hwf, fun _ hx => s.memRead_memWrite_other v hx, rfl⟩

/-- Settles O5: past the end LOAD leaves the state; inside it is an update of `mem` to the run of
writes, which is read back inside the run and not seen outside it. -/
theorem bulkLoadIsAllOrNothing : Obligations.BulkLoadIsAllOrNothing := by
  intro s values start hwf
  refine ⟨loadTransaction_pastEnd s, fun hend => ⟨_, loadTransaction_inside s hend, rfl, ?_, ?_⟩⟩
  · intro i hi
    exact Memory.read_writeRun_inside hwf hend hi
  · intro x hx
    exact Memory.read_writeRun_outside hx

end Sys2Proof.Proofs
end

section
/-! PROOFS. The family of 41_loads_stores.md: the store of the accumulator (R134). -/

namespace Sys2Proof.Proofs

open Sys2Proof Sys2Proof.Machine Sys2Proof.Claims

theorem encode_ldAtPairA_length (rr : Pair) : (encode (ldAtPairA rr)).length = 1 := by
  cases rr <;> rfl

/-- The three stores of the accumulator are one operation, whatever the pair: a single-cell write at
the pair's wide value, then the end of the Execute phase (R134). -/
theorem exec_ldAtPairA (rr : Pair) (s : State) :
    exec (ldAtPairA rr) s = .next ((s.memWrite (s.wide rr) s.a).retire 0 8) := by
  cases rr <;> rfl

/-- Settles O24: the store is a single-cell write, seen at its own address alone, and no register or
flag is in its reach or, but for `pc` and `cycles`, in that of `retire`. -/
theorem storeAccumulatorCompletes : Obligations.StoreAccumulatorCompletes := by
  intro rr s hwf
  refine ⟨encode_ldAtPairA_length rr, _, exec_ldAtPairA rr s, ?cell, ?otherCells, ⟨rfl, rfl⟩,
    rfl, ?halves, ⟨rfl, rfl, rfl, rfl⟩, ⟨rfl, rfl⟩⟩
  case cell => rw [State.retire_memRead, State.memRead_memWrite_same _ _ hwf]
  case otherCells =>
    intro x hx
    rw [State.retire_memRead, State.memRead_memWrite_other _ _ (List.ne_of_not_mem_cons hx)]
  case halves =>
    intro r _
    rw [State.retire_half, State.memWrite_half]

end Sys2Proof.Proofs
end

section
/-! PROOFS. The family of 42_inc_dec.md: the increment and the decrement of a pair (R150, R154). -/

namespace Sys2Proof.Machine

/-! ### The halves a pair write leaves (R24, R29) -/

/-- Writing a pair is writing its two halves. -/
theorem State.setPair_eq_setHalf (s : State) (rr : Pair) (p : RegPair) :
    s.setPair rr p = (s.setHalf (highHalf rr) p.high).setHalf (lowHalf rr) p.low := by
  cases rr <;> rfl

theorem State.setWide_half_other (s : State) {rr : Pair} {r : Half} (v : Word)
    (hhigh : r ≠ highHalf rr) (hlow : r ≠ lowHalf rr) : (s.setWide rr v).half r = s.half r := by
  rw [State.setWide, State.setPair_eq_setHalf, State.setHalf_half_other _ _ _ _ hlow,
    State.setHalf_half_other _ _ _ _ hhigh]

end Sys2Proof.Machine

namespace Sys2Proof.Proofs

open Sys2Proof Sys2Proof.Machine Sys2Proof.Claims

theorem encode_incPair_length (rr : Pair) : (encode (incPair rr)).length = 1 := by
  cases rr <;> rfl

theorem encode_decPair_length (rr : Pair) : (encode (decPair rr)).length = 1 := by
  cases rr <;> rfl

/-- The three increments are one operation, whatever the pair (R150). -/
theorem exec_incPair (rr : Pair) (s : State) :
    exec (incPair rr) s = .next ((s.setWide rr (s.wide rr + 1)).retire 0 8) := by
  cases rr <;> rfl

/-- The three decrements are one operation, whatever the pair (R154). -/
theorem exec_decPair (rr : Pair) (s : State) :
    exec (decPair rr) s = .next ((s.setWide rr (s.wide rr - 1)).retire 0 8) := by
  cases rr <;> rfl

theorem setWide_retire_wide (rr : Pair) (s : State) (v : Word) (n c : Nat) :
    ((s.setWide rr v).retire n c).wide rr = v := by
  rw [State.retire_wide, State.setWide_wide_same]

/-- An instruction that writes a pair and retires leaves everything but that pair, `pc`, `cycles`
and the unspecified `MAR` and `MDR`, whatever it writes. -/
theorem setWide_retire_frame {rr : Pair} {s t : State} {v : Word} {n c : Nat}
    (ht : t = (s.setWide rr v).retire n c) :
    Advances s t n c ∧ t.a = s.a ∧ KeepsHalvesBut (halvesOf rr) s t ∧ KeepsFlags s t ∧
      KeepsSpecials s t ∧ KeepsCellsBut [] s t := by
  subst ht
  refine ⟨?advances, by simp, ?halves, ?flags, ?specials, ?cells⟩
  case advances => simp [Advances]
  case halves =>
    intro r hr
    obtain ⟨hhigh, hlow⟩ : r ≠ highHalf rr ∧ r ≠ lowHalf rr := by simpa [halvesOf] using hr
    rw [State.retire_half, State.setWide_half_other s v hhigh hlow]
  case flags => simp [KeepsFlags]
  case specials => simp [KeepsSpecials]
  case cells => simp [KeepsCellsBut]

/-- Settles O28: the increment is a write of the sum to the pair, and `+` on words wraps. -/
theorem incrementPairCompletes : Obligations.IncrementPairCompletes := by
  intro rr s
  refine ⟨encode_incPair_length rr, _, exec_incPair rr s, ?sum, setWide_retire_frame rfl⟩
  case sum => rw [setWide_retire_wide]; exact BitVec.toNat_add ..

/-- Settles O29: the decrement is a write of the difference to the pair; on words, taking 1 away is
adding 65535 modulo 65536. -/
theorem decrementPairCompletes : Obligations.DecrementPairCompletes := by
  intro rr s
  refine ⟨encode_decPair_length rr, _, exec_decPair rr s, ?difference, setWide_retire_frame rfl⟩
  case difference =>
    rw [setWide_retire_wide, Nat.add_comm]
    exact BitVec.toNat_sub ..

end Sys2Proof.Proofs
end

section
/-! PROOFS. The family of 43_rotate_nop_unimpl.md: the unimplemented opcode (R183). -/

namespace Sys2Proof.Proofs

open Sys2Proof Sys2Proof.Machine Sys2Proof.Claims

theorem encode_unimpl (opcode : Byte) : encode (.unimpl opcode) = [opcode] := rfl

/-- The handler of an unimplemented opcode is the end of the Execute phase alone, whatever the byte
(R183). -/
theorem exec_unimpl (opcode : Byte) (s : State) :
    exec (.unimpl opcode) s = .next (s.retire 0 4) := rfl

/-- The end of the Execute phase changes `pc`, `cycles` and the unspecified `MAR` and `MDR` alone
(R113, R121). -/
theorem retire_frame (s : State) (n c : Nat) :
    Advances s (s.retire n c) n c ∧ (s.retire n c).a = s.a ∧ KeepsHalvesBut [] s (s.retire n c) ∧
      KeepsFlags s (s.retire n c) ∧ KeepsSpecials s (s.retire n c) ∧
      KeepsCellsBut [] s (s.retire n c) := by
  refine ⟨?advances, s.retire_a n c, ?halves, ?flags, ?specials, ?cells⟩
  case advances => exact ⟨s.retire_pc n c, s.retire_cycles n c⟩
  case halves => exact fun r _ => s.retire_half n c r
  case flags => exact ⟨s.retire_fZ n c, s.retire_fN n c, s.retire_fH n c, s.retire_fC n c⟩
  case specials => exact ⟨s.retire_sp n c, s.retire_ir n c⟩
  case cells => exact fun x _ => s.retire_memRead n c x

/-- Settles O38: the handler is the end of the Execute phase with no operand bytes and a cost of 4,
and that end keeps everything else. -/
theorem unimplementedOpcodeCompletes : Obligations.UnimplementedOpcodeCompletes := by
  intro opcode s
  exact ⟨encode_unimpl opcode, _, exec_unimpl opcode s, retire_frame s 0 4⟩

end Sys2Proof.Proofs
end

section
/-! PROOFS. The family of 70_reset_and_hazards.md: the transactions RESET (R230) and QUERY (R239). -/

namespace Sys2Proof.Proofs

open Sys2Proof Sys2Proof.Machine Sys2Proof.Claims

theorem transact_reset (s : State) :
    transact .reset s = (.ok, { State.reset with draws := s.draws }) := rfl

theorem transact_query (mode : AddressingMode) (s : State) :
    transact (.query mode) s = (.word (s.resolve mode), s) := rfl

/-- All six halves are 0 after a reset, whatever the counter of free values (R44). -/
theorem reset_half (n : Nat) (r : Half) : { State.reset with draws := n }.half r = 0x00#8 := by
  cases r <;> rfl

/-- No cell is listed after a reset, and a cell that is not listed holds 0 (R44, R82). -/
theorem reset_memRead (n : Nat) (x : Word) :
    { State.reset with draws := n }.memRead x = 0x00#8 := rfl

/-- Settles O49: RESET leaves the reset state, whose registers, flags and `cycles` are 0 as it is
written; the halves and the cells are read through their accessors. -/
theorem resetZeroesEverything : Obligations.ResetZeroesEverything := by
  intro s
  exact ⟨_, transact_reset s, rfl, rfl, reset_half s.draws, rfl, rfl, rfl, rfl, rfl,
    rfl, rfl, rfl, rfl, reset_memRead s.draws, rfl⟩

/-- Settles O50: QUERY hands out the resolved word and the state it was given. -/
theorem queryChangesNothing : Obligations.QueryChangesNothing := transact_query

end Sys2Proof.Proofs
end

section
/-! PROOFS. The encoding (30_encoding.md): encode and decode are inverse on well-formed instructions,
the dispatch table and its lengths, and the instruction a step reads at `pc`. -/

namespace Sys2Proof

open Sys2Proof.Machine Sys2Proof.Claims

/-! ### What the dispatch table answers, told by the bytes it was given (R95) -/

/-- A byte is unimplemented exactly when neither list has it (R100). -/
theorem isUnimplemented_iff {b : Byte} :
    isUnimplemented b = true ↔ b ∉ definedOpcodes ∧ b ∉ faultingOpcodes := by
  simp [isUnimplemented]

theorem mem_opcodes_of_implemented {b : Byte} (h : ¬ isUnimplemented b = true) :
    b ∈ definedOpcodes ++ faultingOpcodes := by
  by_cases hdefined : b ∈ definedOpcodes
  · exact List.mem_append_left _ hdefined
  by_cases hfaulting : b ∈ faultingOpcodes
  · exact List.mem_append_right _ hfaulting
  · exact absurd (isUnimplemented_iff.mpr ⟨hdefined, hfaulting⟩) h

/-- The operand bytes that follow an opcode, of the format its length selects (R91 to R93). -/
def operandBytes (opcode d8 : Byte) (d16 : Word) : List Byte :=
  match opcodeLength opcode with
  | 2 => [d8]
  | 3 => [lowByte d16, highByte d16]
  | _ => []

theorem operandBytes_ofLengthOne {b : Byte} (d8 : Byte) (d16 : Word) (h : opcodeLength b = 1) :
    operandBytes b d8 d16 = [] := by simp only [operandBytes, h]

theorem operandBytes_ofLengthTwo {b : Byte} (d8 : Byte) (d16 : Word) (h : opcodeLength b = 2) :
    operandBytes b d8 d16 = [d8] := by simp only [operandBytes, h]

theorem operandBytes_ofLengthThree {b : Byte} (d8 : Byte) (d16 : Word) (h : opcodeLength b = 3) :
    operandBytes b d8 d16 = [lowByte d16, highByte d16] := by simp only [operandBytes, h]

theorem encode_dispatch_ofLengthOne {b : Byte} (h : opcodeLength b = 1) :
    encode (dispatch b 0 0) = [b] := by
  revert b; decide

/-- The opcodes of format OP_D8 (R92). -/
theorem twoByteOpcode_cases {b : Byte} (h : opcodeLength b = 2) :
    b = 0x06 ∨ b = 0x0E ∨ b = 0x16 ∨ b = 0x1E ∨ b = 0x26 ∨ b = 0x2E := by
  revert b; decide

/-- The opcodes of format OP_D16 (R93). -/
theorem threeByteOpcode_cases {b : Byte} (h : opcodeLength b = 3) :
    b = 0x01 ∨ b = 0x11 ∨ b = 0x21 ∨ b = 0x08 := by
  revert b; decide

theorem encode_dispatch_ofLengthTwo {b : Byte} (d8 : Byte) (h : opcodeLength b = 2) :
    encode (dispatch b d8 0) = [b, d8] := by
  obtain rfl | rfl | rfl | rfl | rfl | rfl := twoByteOpcode_cases h <;> rfl

theorem encode_dispatch_ofLengthThree {b : Byte} (d16 : Word) (h : opcodeLength b = 3) :
    encode (dispatch b 0 d16) = [b, lowByte d16, highByte d16] := by
  obtain rfl | rfl | rfl | rfl := threeByteOpcode_cases h <;> rfl

/-- The dispatched instruction is encoded by the byte that selected it and its operand bytes. -/
theorem encode_dispatch (b d8 : Byte) (d16 : Word) :
    encode (dispatch b d8 d16) = b :: operandBytes b d8 d16 := by
  obtain h | h | h := opcodeLength_cases b
  · rw [dispatch_ofLengthOne d8 d16 h, operandBytes_ofLengthOne d8 d16 h,
      encode_dispatch_ofLengthOne h]
  · rw [dispatch_ofLengthTwo d8 d16 h, operandBytes_ofLengthTwo d8 d16 h,
      encode_dispatch_ofLengthTwo d8 h]
  · rw [dispatch_ofLengthThree d8 d16 h, operandBytes_ofLengthThree d8 d16 h,
      encode_dispatch_ofLengthThree d16 h]

/-- Every entry of the dispatch table is an instruction. -/
theorem dispatch_wellFormed (b d8 : Byte) (d16 : Word) : (dispatch b d8 d16).wellFormed = true := by
  by_cases hu : isUnimplemented b = true
  · rw [dispatch_unimplemented d8 d16 hu]; exact hu
  · have table : (definedOpcodes ++ faultingOpcodes).all
        (fun b => (dispatch b d8 d16).wellFormed) = true := rfl
    exact List.all_eq_true.mp table b (mem_opcodes_of_implemented hu)

/-- The opcode byte of an instruction, the first of its encoding (R90). -/
def Instr.opcodeByte (i : Instr) : Byte := (encode i).headD 0

@[simp] theorem opcodeByte_dispatch (b d8 : Byte) (d16 : Word) :
    (dispatch b d8 d16).opcodeByte = b := by
  rw [Instr.opcodeByte, encode_dispatch, List.headD_cons]

theorem dispatch_eq_unimpl_iff (b d8 : Byte) (d16 : Word) :
    dispatch b d8 d16 = .unimpl b ↔ b ∉ definedOpcodes ∧ b ∉ faultingOpcodes := by
  rw [← isUnimplemented_iff]
  constructor
  · intro h
    have hwf := dispatch_wellFormed b d8 d16
    rwa [h] at hwf
  · exact dispatch_unimplemented d8 d16

theorem opcodeLength_faulting : ∀ b ∈ faultingOpcodes, opcodeLength b = 1 := by decide

theorem opcodeByte_faultingSlot : ∀ i ∈ faultingSlots, i.opcodeByte ∈ faultingOpcodes := by decide

theorem dispatch_faulting : ∀ b ∈ faultingOpcodes, dispatch b 0 0 ∈ faultingSlots := by decide

theorem dispatch_mem_faultingSlots_iff (b d8 : Byte) (d16 : Word) :
    dispatch b d8 d16 ∈ faultingSlots ↔ b ∈ faultingOpcodes := by
  constructor
  · intro h
    have hb := opcodeByte_faultingSlot _ h
    rwa [opcodeByte_dispatch] at hb
  · intro h
    rw [dispatch_ofLengthOne d8 d16 (opcodeLength_faulting b h)]
    exact dispatch_faulting b h

/-! ### Encode and decode (R90 to R93) -/

/-- Decoding an encoding gives the instruction back: an operand word is put together again from its
two bytes, and an unimplemented byte is its own instruction. -/
theorem decode_encode {i : Instr} (rest : List Byte) (h : i.wellFormed = true) :
    decode (encode i ++ rest) = .ok (i, rest) := by
  cases i with
  | unimpl b =>
    rw [encode, List.singleton_append, decode_ofLengthOne rest (opcodeLength_unimplemented h),
      dispatch_unimplemented _ _ h]
  | ldBcD16 d16 | ldDeD16 d16 | ldHlD16 d16 | ldAtA16Sp d16 =>
    refine (decode_ofLengthThree rest rfl).trans ?_
    rw [joinBytes_high_low]
    rfl
  | _ => rfl

/-- A decode that succeeds has read exactly the encoding of the instruction it answers. -/
theorem eq_encode_append_of_decode {bytes rest : List Byte} {i : Instr}
    (h : decode bytes = .ok (i, rest)) : i.wellFormed = true ∧ bytes = encode i ++ rest := by
  obtain ⟨b, ⟨hb, rfl, rfl⟩ | ⟨hb, d8, rfl, rfl⟩ | ⟨hb, lo, hi, rfl, rfl⟩⟩ := decode_cases h
  · refine ⟨dispatch_wellFormed _ _ _, ?_⟩
    rw [encode_dispatch_ofLengthOne hb]
    rfl
  · refine ⟨dispatch_wellFormed _ _ _, ?_⟩
    rw [encode_dispatch_ofLengthTwo d8 hb]
    rfl
  · refine ⟨dispatch_wellFormed _ _ _, ?_⟩
    rw [encode_dispatch_ofLengthThree _ hb, highByte_joinBytes, lowByte_joinBytes]
    rfl

end Sys2Proof

namespace Sys2Proof.Machine

/-! ### The instruction at `pc` (40_engine_step.md R111, R112) -/

/-- The instruction a step runs, from the three bytes at `pc`. -/
theorem State.fetch_fetchedInstr (s : State) :
    s.fetch.fetchedInstr = dispatch (s.memRead s.pc) (s.memRead (s.pc + 1))
      (joinBytes (s.memRead (s.pc + 1 + 1)) (s.memRead (s.pc + 1))) := by
  rw [State.fetchedInstr, State.fetch_opcode]
  simp [State.resolve, State.memRead16, zeroExtendByte]

/-- The instruction a step runs has the byte at `pc` as its opcode. -/
@[simp] theorem State.fetch_fetchedInstr_opcodeByte (s : State) :
    s.fetch.fetchedInstr.opcodeByte = s.memRead s.pc := by
  rw [State.fetch_fetchedInstr, opcodeByte_dispatch]

theorem State.fetchedInstr_wellFormed (s : State) : s.fetchedInstr.wellFormed = true :=
  dispatch_wellFormed _ _ _

/-- When the three bytes at `pc` decode, they decode to the instruction the step runs. -/
theorem State.fetch_fetchedInstr_of_decode {s : State} {i : Instr} {rest : List Byte}
    (h : decode [s.memRead s.pc, s.memRead (s.pc + 1), s.memRead (s.pc + 1 + 1)] = .ok (i, rest)) :
    s.fetch.fetchedInstr = i := by
  rw [State.fetch_fetchedInstr]
  obtain ⟨b, ⟨hb, hbytes, rfl⟩ | ⟨hb, d8, hbytes, rfl⟩ | ⟨hb, lo, hi, hbytes, rfl⟩⟩ :=
    decode_cases h
  · cases hbytes
    exact dispatch_ofLengthOne _ _ hb
  · cases hbytes
    exact dispatch_ofLengthTwo _ _ hb
  · cases hbytes
    exact dispatch_ofLengthThree _ _ hb

end Sys2Proof.Machine

namespace Sys2Proof.Proofs

open Sys2Proof Sys2Proof.Machine Sys2Proof.Claims

/-- Settles O17: an operand word is put together again from its two bytes. -/
theorem decodeOfEncodeGivesTheInstruction : Obligations.DecodeOfEncodeGivesTheInstruction :=
  fun _ rest h => decode_encode rest h

/-- Settles O18, by the three shapes of what a decode has read. -/
theorem decodedBytesAreTheEncoding : Obligations.DecodedBytesAreTheEncoding :=
  fun _ _ _ h => eq_encode_append_of_decode h

/-- Settles O19: the two lists are compared as they are written; the entry of a byte is told by the
lists, for it is well-formed and has that byte as its opcode. -/
theorem dispatchTableIsAPartition : Obligations.DispatchTableIsAPartition := by
  refine ⟨rfl, by decide, rfl, by decide, by decide, fun b d8 d16 => ⟨?_, ?_⟩⟩
  · exact dispatch_eq_unimpl_iff b d8 d16
  · exact dispatch_mem_faultingSlots_iff b d8 d16

/-- Settles O20, by the three shapes of what a decode has read. -/
theorem opcodeAloneTellsTheLength : Obligations.OpcodeAloneTellsTheLength := by
  intro opcode rest after i h
  obtain ⟨b, ⟨hb, hbytes, -⟩ | ⟨hb, d8, hbytes, -⟩ | ⟨hb, lo, hi, hbytes, -⟩⟩ := decode_cases h <;>
    cases hbytes <;> simp [hb]

/-- Settles O14, by running the decoder on the thirteen words. -/
theorem writtenOutWordsDecode : Obligations.WrittenOutWordsDecode := by
  unfold Obligations.WrittenOutWordsDecode
  decide

/-- Settles O15: the three bytes at `pc` are what the dispatch is given. -/
theorem stepRunsTheDecodedInstruction : Obligations.StepRunsTheDecodedInstruction := by
  intro s i rest h
  have hpc : s.pc + 2 = s.pc + 1 + 1 := by rw [BitVec.add_assoc]; rfl
  rw [hpc] at h
  rw [step, State.fetch_fetchedInstr_of_decode h]

/-- Settles O16: the opcode of each family selects it in the dispatch table, which hands the resolved
operand on. -/
theorem operandsComeFromTheResolver : Obligations.OperandsComeFromTheResolver := by
  intro s
  refine ⟨fun r h => ?_, fun rr h => ?_, fun h => ?_⟩
  · rw [State.fetchedInstr, h]
    cases r <;> rfl
  · rw [State.fetchedInstr, h]
    cases rr <;> rfl
  · rw [State.fetchedInstr, h]
    rfl

end Sys2Proof.Proofs
end

section
/-! PROOFS. Memory (20_memory.md): 16-bit accesses (R64, R65), the canonical form and the resolver
(R70 to R78). -/

namespace Sys2Proof.Machine

/-! ### A 16-bit write, read at its two addresses (R65) -/

/-- The two addresses of a 16-bit access differ, at 0xFFFF too. -/
theorem word_add_one_ne (addr : Word) : addr + 1 ≠ addr := by bv_omega

theorem State.memRead_memWrite16_low {s : State} (addr v : Word) (h : Memory.wf s.mem = true) :
    (s.memWrite16 addr v).memRead addr = lowByte v :=
  (State.memRead_memWrite_other _ _ (word_add_one_ne addr).symm).trans
    (State.memRead_memWrite_same addr _ h)

theorem State.memRead_memWrite16_high {s : State} (addr v : Word) (h : Memory.wf s.mem = true) :
    (s.memWrite16 addr v).memRead (addr + 1) = highByte v :=
  State.memRead_memWrite_same (addr + 1) _ (State.memWrite_wf h)

theorem State.memRead_memWrite16_other (s : State) {addr x : Word} (v : Word) (hlow : x ≠ addr)
    (hhigh : x ≠ addr + 1) : (s.memWrite16 addr v).memRead x = s.memRead x :=
  (State.memRead_memWrite_other _ _ hhigh).trans (State.memRead_memWrite_other _ _ hlow)

/-! ### The canonical form is unique -/

/-- A canonical memory that lists its lowest cell at `k` reads differently there from one whose cells
all lie above `k`. -/
theorem Memory.read_ne_of_above {lo k : Nat} {v : Byte} {m m' : Memory}
    (hm : Memory.wfFrom lo ((k, v) :: m) = true) (hm' : Memory.wfFrom (k + 1) m' = true) :
    Memory.read ((k, v) :: m) k ≠ Memory.read m' k := by
  obtain ⟨-, -, hv, -⟩ := Memory.wfFrom_cons.mp hm
  rwa [Memory.read_below hm' (Nat.lt_add_one k), Memory.read, if_pos rfl]

/-- When two canonical memories with the same lowest cell read alike, so do what they list above. -/
theorem Memory.read_tail_eq {k : Nat} {v : Byte} {m m' : Memory}
    (hm : Memory.wfFrom (k + 1) m = true) (hm' : Memory.wfFrom (k + 1) m' = true)
    (h : ∀ a < Memory.cells, Memory.read ((k, v) :: m) a = Memory.read ((k, v) :: m') a) :
    ∀ a < Memory.cells, Memory.read m a = Memory.read m' a := by
  intro a ha
  by_cases hk : k = a
  · subst hk
    rw [Memory.read_below hm (Nat.lt_add_one k), Memory.read_below hm' (Nat.lt_add_one k)]
  · have := h a ha
    rwa [Memory.read, Memory.read, if_neg hk, if_neg hk] at this

theorem Memory.eq_of_read_eq_from {lo : Nat} {m m' : Memory} (hm : Memory.wfFrom lo m = true)
    (hm' : Memory.wfFrom lo m' = true)
    (h : ∀ a < Memory.cells, Memory.read m a = Memory.read m' a) : m = m' := by
  induction m generalizing lo m' with
  | nil =>
    cases m' with
    | nil => rfl
    | cons e' m' =>
      obtain ⟨-, hk', -, -⟩ := Memory.wfFrom_cons.mp hm'
      exact absurd (h _ hk').symm (Memory.read_ne_of_above hm' rfl)
  | cons e m ih =>
    obtain ⟨k, v⟩ := e
    obtain ⟨hlo, hk, hv, htail⟩ := Memory.wfFrom_cons.mp hm
    cases m' with
    | nil => exact absurd (h k hk) (Memory.read_ne_of_above hm rfl)
    | cons e' m' =>
      obtain ⟨k', v'⟩ := e'
      obtain ⟨hlo', hk', hv', htail'⟩ := Memory.wfFrom_cons.mp hm'
      obtain hlt | rfl | hgt := Nat.lt_trichotomy k k'
      · have habove := Memory.wfFrom_cons.mpr ⟨hlt, hk', hv', htail'⟩
        exact absurd (h k hk) (Memory.read_ne_of_above hm habove)
      · have hhead := h k hk
        rw [Memory.read, Memory.read, if_pos rfl, if_pos rfl] at hhead
        subst hhead
        rw [ih htail htail' (Memory.read_tail_eq htail htail' h)]
      · have habove := Memory.wfFrom_cons.mpr ⟨hgt, hk, hv, htail⟩
        exact absurd (h k' hk').symm (Memory.read_ne_of_above hm' habove)

/-- Writing a cell and writing its old byte back is no change. -/
theorem Memory.write_write_read {m : Memory} {a : Nat} (v : Byte) (ha : a < Memory.cells)
    (hm : m.wf = true) : Memory.write (Memory.write m a v) a (Memory.read m a) = m := by
  have hwf : (Memory.write m a v).wf = true := Memory.write_wf ha hm
  refine Memory.eq_of_read_eq_from (Memory.write_wf ha hwf) hm fun x _ => ?_
  by_cases hx : x = a
  · rw [hx, Memory.read_write_same hwf]
  · rw [Memory.read_write_other hx, Memory.read_write_other hx]

theorem State.memWrite_memWrite_memRead {s : State} (addr : Word) (v : Byte)
    (h : Memory.wf s.mem = true) : (s.memWrite addr v).memWrite addr (s.memRead addr) = s :=
  congrArg (fun m => { s with mem := m }) (Memory.write_write_read v addr.isLt h)

/-! ### Bytes read as words (R64, R70) -/

theorem State.memRead16_toNat (s : State) (addr : Word) :
    (s.memRead16 addr).toNat = (s.memRead (addr + 1)).toNat * 256 + (s.memRead addr).toNat :=
  joinBytes_toNat _ _

theorem zeroExtendByte_toNat (b : Byte) : (zeroExtendByte b).toNat = b.toNat :=
  zeroExtend_byte_toNat b

end Sys2Proof.Machine

namespace Sys2Proof.Proofs

open Sys2Proof Sys2Proof.Machine Sys2Proof.Claims

/-- Settles O2: the second write is at another address than the first. -/
theorem wordWriteIsLittleEndian : Obligations.WordWriteIsLittleEndian := by
  intro s addr v hwf
  refine ⟨?low, ?high, fun x hlow hhigh => s.memRead_memWrite16_other v hlow hhigh, rfl⟩
  case low => rw [State.memRead_memWrite16_low addr v hwf, lowByte_toNat]
  case high => rw [State.memRead_memWrite16_high addr v hwf, highByte_toNat]

/-- Settles O3: the word is put together again from its two bytes. -/
theorem wordReadAfterWordWrite : Obligations.WordReadAfterWordWrite := by
  intro s addr v hwf
  rw [State.memRead16, State.memRead_memWrite16_low addr v hwf,
    State.memRead_memWrite16_high addr v hwf, joinBytes_high_low]

/-- Settles O4: the addresses below 65536 are the words. -/
theorem canonicalMemoryIsUnique : Obligations.CanonicalMemoryIsUnique := by
  intro m m' hm hm' h
  refine Memory.eq_of_read_eq_from hm hm' fun a ha => ?_
  exact h (BitVec.ofNatLT a ha)

/-- Settles O21: a 16-bit read joins the two bytes. -/
theorem immediateSixteenIsLittleEndian : Obligations.ImmediateSixteenIsLittleEndian := by
  rintro s lo hi rfl rfl
  exact s.memRead16_toNat s.pc

/-- Settles O22: each mode reads one byte at its own address and extends it; the address of
UnsignedEight is a sum of words, and that of RegisterDirect a half extended with zeros. -/
theorem resolverModes : Obligations.ResolverModes := by
  intro s
  refine ⟨rfl, zeroExtendByte_toNat _, ?unsignedEight, fun _ => zeroExtendByte_toNat _,
    ?signedEight, fun _ => zeroExtendByte_toNat _, ?high, ?low⟩
  case unsignedEight =>
    have haddr : (unsignedEightBase + s.pc).toNat = (0xFF00 + s.pc.toNat) % 65536 :=
      BitVec.toNat_add ..
    rw [State.resolve, zeroExtendByte_toNat, State.memRead, haddr]
  case signedEight => exact BitVec.toInt_signExtend_of_le (by decide)
  case high =>
    intro rr
    rw [State.resolve, zeroExtendByte_toNat, State.memRead, zeroExtendByte_toNat,
      State.pair_eq_halves]
  case low =>
    intro rr
    rw [State.resolve, zeroExtendByte_toNat, State.memRead, zeroExtendByte_toNat,
      State.pair_eq_halves]

end Sys2Proof.Proofs
end

section
/-! PROOFS. What an instruction answers, said once for the twelve families: how it completes, what it
raises, and the frame of the access matrix (10_state.md R29, 40_engine_step.md R113). -/

namespace Sys2Proof

open Sys2Proof.Machine Sys2Proof.Claims

/-- Every instruction is one of a family, named by its register (30_encoding.md R96, R99, R100). -/
theorem Instr.byFamily {P : Instr → Prop} (nop : P .nop) (unimpl : ∀ b, P (.unimpl b))
    (rlca : P .rlca) (rrca : P .rrca) (ldPairD16 : ∀ rr d16, P (ldPairD16 rr d16))
    (ldAtPairA : ∀ rr, P (ldAtPairA rr)) (ldAtA16Sp : ∀ a16, P (.ldAtA16Sp a16))
    (ldHalfD8 : ∀ r d8, P (ldHalfD8 r d8)) (incPair : ∀ rr, P (incPair rr))
    (decPair : ∀ rr, P (decPair rr)) (incHalf : ∀ r, P (incHalf r)) (decHalf : ∀ r, P (decHalf r))
    (faulting : ∀ i ∈ faultingSlots, P i) (i : Instr) : P i := by
  cases i with
  | nop => exact nop
  | unimpl b => exact unimpl b
  | rlca => exact rlca
  | rrca => exact rrca
  | ldBcD16 d16 => exact ldPairD16 .bc d16
  | ldDeD16 d16 => exact ldPairD16 .de d16
  | ldHlD16 d16 => exact ldPairD16 .hl d16
  | ldAtBcA => exact ldAtPairA .bc
  | ldAtDeA => exact ldAtPairA .de
  | ldAtHlA => exact ldAtPairA .hl
  | ldAtA16Sp a16 => exact ldAtA16Sp a16
  | ldBD8 d8 => exact ldHalfD8 .b d8
  | ldCD8 d8 => exact ldHalfD8 .c d8
  | ldDD8 d8 => exact ldHalfD8 .d d8
  | ldED8 d8 => exact ldHalfD8 .e d8
  | ldHD8 d8 => exact ldHalfD8 .h d8
  | ldLD8 d8 => exact ldHalfD8 .l d8
  | incBc => exact incPair .bc
  | incDe => exact incPair .de
  | incHl => exact incPair .hl
  | decBc => exact decPair .bc
  | decDe => exact decPair .de
  | decHl => exact decPair .hl
  | incB => exact incHalf .b
  | incC => exact incHalf .c
  | incD => exact incHalf .d
  | incE => exact incHalf .e
  | incH => exact incHalf .h
  | incL => exact incHalf .l
  | decB => exact decHalf .b
  | decC => exact decHalf .c
  | decD => exact decHalf .d
  | decE => exact decHalf .e
  | decH => exact decHalf .h
  | decL => exact decHalf .l
  | ldSpD16 | incSp | decSp | incA | decA | ldAD8 => exact faulting _ (by decide)

end Sys2Proof

namespace Sys2Proof.Proofs

open Sys2Proof Sys2Proof.Machine Sys2Proof.Claims

/-! ### The operation each family is -/

theorem exec_nop (s : State) : exec .nop s = .next (s.retire 0 4) := rfl

theorem exec_rlca (s : State) : exec .rlca s =
    .next (((s.setA (rotateLeftByte s.a)).setCarry (s.a.getLsbD 7)).retire 0 4) := rfl

theorem exec_rrca (s : State) : exec .rrca s =
    .next (((s.setA (rotateRightByte s.a)).setCarry (s.a.getLsbD 0)).retire 0 4) := rfl

theorem exec_ldPairD16 (rr : Pair) (d16 : Word) (s : State) :
    exec (ldPairD16 rr d16) s = .next ((s.setWide rr d16).retire 2 12) := by cases rr <;> rfl

theorem exec_ldAtA16Sp (a16 : Word) (s : State) :
    exec (.ldAtA16Sp a16) s = .next ((s.memWrite16 a16 s.sp).retire 2 20) := rfl

theorem exec_ldHalfD8 (r : Half) (d8 : Byte) (s : State) :
    exec (ldHalfD8 r d8) s = .next ((s.setHalf r d8).retire 1 8) := by cases r <;> rfl

theorem exec_incHalf (r : Half) (s : State) : exec (incHalf r) s = incrementHalf r s := by
  cases r <;> rfl

theorem exec_decHalf (r : Half) (s : State) : exec (decHalf r) s = decrementHalf r s := by
  cases r <;> rfl

theorem exec_faultingSlot {i : Instr} (h : i ∈ faultingSlots) (s : State) :
    exec i s = raiseError (.invalidRegisterTarget s.opcode) s := by
  obtain rfl | rfl | rfl | rfl | rfl | rfl : i = .ldSpD16 ∨ i = .incSp ∨ i = .decSp ∨ i = .incA ∨
      i = .decA ∨ i = .ldAD8 := by
    simpa only [faultingSlots, List.mem_cons, List.not_mem_nil, or_false] using h
  all_goals rfl

/-! ### INC r and DEC r, in range and out of it (42_inc_dec.md R158, R165) -/

/-- INC r below 99 writes the packed sum and the flags. -/
theorem exec_incHalf_inRange {r : Half} {s : State} (h : bcdToDecimal (s.half r) < 99) :
    ∃ b, decimalToBcd (bcdToDecimal (s.half r) + 1) = some b ∧
      exec (incHalf r) s = .next (((s.setHalf r b).setIncFlags (s.half r)
        (bcdToDecimal (s.half r) + 1)).retire 0 4) := by
  rw [exec_incHalf]
  obtain ⟨-, t, ht, hexec⟩ | ⟨hge, -⟩ := incrementHalf_cases r s
  · obtain ⟨h0, h99, rfl⟩ := State.setHalfBcd_ok ht
    exact ⟨_, decimalToBcd_inRange h0 h99, hexec⟩
  · omega

theorem exec_incHalf_outOfRange {r : Half} {s : State} (h : 99 ≤ bcdToDecimal (s.half r)) :
    exec (incHalf r) s = raiseError (.encodingError (bcdToDecimal (s.half r) + 1)) s := by
  rw [exec_incHalf]
  obtain ⟨hlt, -⟩ | ⟨-, hexec⟩ := incrementHalf_cases r s
  · omega
  · exact hexec

/-- DEC r of 1 to 100 writes the packed difference and the flags. -/
theorem exec_decHalf_inRange {r : Half} {s : State} (h1 : 1 ≤ bcdToDecimal (s.half r))
    (h100 : bcdToDecimal (s.half r) ≤ 100) :
    ∃ b, decimalToBcd (bcdToDecimal (s.half r) - 1) = some b ∧
      exec (decHalf r) s = .next (((s.setHalf r b).setDecFlags (s.half r)
        (bcdToDecimal (s.half r) - 1)).retire 0 4) := by
  rw [exec_decHalf]
  obtain ⟨-, t, ht, hexec⟩ | ⟨hout, -⟩ := decrementHalf_cases r s
  · obtain ⟨h0, h99, rfl⟩ := State.setHalfBcd_ok ht
    exact ⟨_, decimalToBcd_inRange h0 h99, hexec⟩
  · omega

theorem exec_decHalf_outOfRange {r : Half} {s : State}
    (h : bcdToDecimal (s.half r) = 0 ∨ 101 ≤ bcdToDecimal (s.half r)) :
    exec (decHalf r) s = raiseError (.encodingError (bcdToDecimal (s.half r) - 1)) s := by
  rw [exec_decHalf]
  obtain ⟨⟨h1, h100⟩, -⟩ | ⟨-, hexec⟩ := decrementHalf_cases r s
  · omega
  · exact hexec

/-! ### The two ways an instruction ends -/

/-- `Executes s i u n c`: on `s` the instruction `i` completes, writes `u`, and retires with `n`
operand bytes and the cost `c` (30_encoding.md R96, 40_engine_step.md R113). -/
inductive Executes (s : State) : Instr → State → Nat → Nat → Prop
  | nop : Executes s .nop s 0 4
  | unimpl (b : Byte) : Executes s (.unimpl b) s 0 4
  | rlca : Executes s .rlca ((s.setA (rotateLeftByte s.a)).setCarry (s.a.getLsbD 7)) 0 4
  | rrca : Executes s .rrca ((s.setA (rotateRightByte s.a)).setCarry (s.a.getLsbD 0)) 0 4
  | ldPairD16 (rr : Pair) (d16 : Word) : Executes s (ldPairD16 rr d16) (s.setWide rr d16) 2 12
  | ldAtPairA (rr : Pair) : Executes s (ldAtPairA rr) (s.memWrite (s.wide rr) s.a) 0 8
  | ldAtA16Sp (a16 : Word) : Executes s (.ldAtA16Sp a16) (s.memWrite16 a16 s.sp) 2 20
  | ldHalfD8 (r : Half) (d8 : Byte) : Executes s (ldHalfD8 r d8) (s.setHalf r d8) 1 8
  | incPair (rr : Pair) : Executes s (incPair rr) (s.setWide rr (s.wide rr + 1)) 0 8
  | decPair (rr : Pair) : Executes s (decPair rr) (s.setWide rr (s.wide rr - 1)) 0 8
  | incHalf (r : Half) (b : Byte) : Executes s (incHalf r)
      ((s.setHalf r b).setIncFlags (s.half r) (bcdToDecimal (s.half r) + 1)) 0 4
  | decHalf (r : Half) (b : Byte) : Executes s (decHalf r)
      ((s.setHalf r b).setDecFlags (s.half r) (bcdToDecimal (s.half r) - 1)) 0 4

/-- `Raises s i e`: on `s` the instruction `i` ends in the error `e` (60_exceptions.md R201, R202). -/
inductive Raises (s : State) : Instr → EngineError → Prop
  | faulting {i : Instr} (h : i ∈ faultingSlots) : Raises s i (.invalidRegisterTarget s.opcode)
  | incHalf {r : Half} (h : 99 ≤ bcdToDecimal (s.half r)) :
      Raises s (incHalf r) (.encodingError (bcdToDecimal (s.half r) + 1))
  | decHalf {r : Half} (h : bcdToDecimal (s.half r) = 0 ∨ 101 ≤ bcdToDecimal (s.half r)) :
      Raises s (decHalf r) (.encodingError (bcdToDecimal (s.half r) - 1))

/-- Every instruction completes or raises, on every state. -/
theorem exec_cases (i : Instr) (s : State) :
    (∃ u n c, Executes s i u n c ∧ exec i s = .next (u.retire n c)) ∨
      ∃ e, Raises s i e ∧ exec i s = raiseError e s := by
  induction i using Instr.byFamily with
  | nop => exact .inl ⟨_, _, _, .nop, exec_nop s⟩
  | unimpl b => exact .inl ⟨_, _, _, .unimpl b, exec_unimpl b s⟩
  | rlca => exact .inl ⟨_, _, _, .rlca, exec_rlca s⟩
  | rrca => exact .inl ⟨_, _, _, .rrca, exec_rrca s⟩
  | ldPairD16 rr d16 => exact .inl ⟨_, _, _, .ldPairD16 rr d16, exec_ldPairD16 rr d16 s⟩
  | ldAtPairA rr => exact .inl ⟨_, _, _, .ldAtPairA rr, exec_ldAtPairA rr s⟩
  | ldAtA16Sp a16 => exact .inl ⟨_, _, _, .ldAtA16Sp a16, exec_ldAtA16Sp a16 s⟩
  | ldHalfD8 r d8 => exact .inl ⟨_, _, _, .ldHalfD8 r d8, exec_ldHalfD8 r d8 s⟩
  | incPair rr => exact .inl ⟨_, _, _, .incPair rr, exec_incPair rr s⟩
  | decPair rr => exact .inl ⟨_, _, _, .decPair rr, exec_decPair rr s⟩
  | incHalf r =>
    obtain h | h := Nat.lt_or_ge (bcdToDecimal (s.half r)) 99
    · obtain ⟨b, -, hexec⟩ := exec_incHalf_inRange h
      exact .inl ⟨_, _, _, .incHalf r b, hexec⟩
    · exact .inr ⟨_, .incHalf h, exec_incHalf_outOfRange h⟩
  | decHalf r =>
    by_cases h : bcdToDecimal (s.half r) = 0 ∨ 101 ≤ bcdToDecimal (s.half r)
    · exact .inr ⟨_, .decHalf h, exec_decHalf_outOfRange h⟩
    · obtain ⟨b, -, hexec⟩ := exec_decHalf_inRange (r := r) (s := s) (by omega) (by omega)
      exact .inl ⟨_, _, _, .decHalf r b, hexec⟩
  | faulting i h => exact .inr ⟨_, .faulting h, exec_faultingSlot h s⟩

/-- What an instruction that answered a next state has done. -/
theorem executes_of_exec_next {i : Instr} {s t : State} (h : exec i s = .next t) :
    ∃ u n c, Executes s i u n c ∧ t = u.retire n c := by
  obtain ⟨u, n, c, hu, hexec⟩ | ⟨e, -, hexec⟩ := exec_cases i s
  · rw [hexec] at h
    cases h
    exact ⟨u, n, c, hu, rfl⟩
  · rw [hexec] at h
    exact absurd h (raiseError_not_next e s t)

/-- What an instruction that answered an error has done. -/
theorem raises_of_exec_fault {i : Instr} {s t : State} {e : EngineError}
    (h : exec i s = .fault (.raised e t)) : Raises s i e ∧ t = s.drawStaging := by
  obtain ⟨u, n, c, -, hexec⟩ | ⟨e', he, hexec⟩ := exec_cases i s
  · rw [hexec] at h
    cases h
  · rw [hexec] at h
    cases h
    exact ⟨he, rfl⟩

/-! ### The frame of an instruction that completes (10_state.md R29, R40) -/

section Frame

variable {s u : State} {i : Instr} {n c : Nat}

theorem Executes.sp (h : Executes s i u n c) : u.sp = s.sp := by cases h <;> simp

theorem Executes.ir (h : Executes s i u n c) : u.ir = s.ir := by cases h <;> simp

theorem Executes.pc (h : Executes s i u n c) : u.pc = s.pc := by cases h <;> simp

theorem Executes.cycles (h : Executes s i u n c) : u.cycles = s.cycles := by cases h <;> simp

/-- Only a rotate writes `A` and `fC` (R21, R40). -/
theorem Executes.accumulator_carry (h : Executes s i u n c) (hi : ¬ isRotate i) :
    u.a = s.a ∧ u.fC = s.fC := by
  cases h with
  | rlca => exact absurd (.inl rfl) hi
  | rrca => exact absurd (.inr rfl) hi
  | _ => simp

/-- Only INC r and DEC r write `fZ`, `fN` and `fH` (R40). -/
theorem Executes.digitFlags (h : Executes s i u n c) (hi : ¬ writesDigitFlags i) :
    u.fZ = s.fZ ∧ u.fN = s.fN ∧ u.fH = s.fH := by
  cases h with
  | incHalf r => exact absurd ⟨r, .inl rfl⟩ hi
  | decHalf r => exact absurd ⟨r, .inr rfl⟩ hi
  | _ => simp

end Frame

@[simp] theorem writtenHalves_ldPairD16 (rr : Pair) (d16 : Word) :
    writtenHalves (ldPairD16 rr d16) = halvesOf rr := by cases rr <;> rfl

@[simp] theorem writtenHalves_incPair (rr : Pair) : writtenHalves (incPair rr) = halvesOf rr := by
  cases rr <;> rfl

@[simp] theorem writtenHalves_decPair (rr : Pair) : writtenHalves (decPair rr) = halvesOf rr := by
  cases rr <;> rfl

@[simp] theorem writtenHalves_ldHalfD8 (r : Half) (d8 : Byte) :
    writtenHalves (ldHalfD8 r d8) = [r] := by cases r <;> rfl

@[simp] theorem writtenHalves_incHalf (r : Half) : writtenHalves (incHalf r) = [r] := by
  cases r <;> rfl

@[simp] theorem writtenHalves_decHalf (r : Half) : writtenHalves (decHalf r) = [r] := by
  cases r <;> rfl

theorem setWide_keepsHalvesBut (s : State) (rr : Pair) (v : Word) :
    KeepsHalvesBut (halvesOf rr) s (s.setWide rr v) := by
  intro r hr
  obtain ⟨hhigh, hlow⟩ : r ≠ highHalf rr ∧ r ≠ lowHalf rr := by simpa [halvesOf] using hr
  exact s.setWide_half_other v hhigh hlow

theorem setHalf_keepsHalvesBut (s : State) (r : Half) (v : Byte) :
    KeepsHalvesBut [r] s (s.setHalf r v) :=
  fun q hq => s.setHalf_half_other r q v (List.ne_of_not_mem_cons hq)

/-- A half outside an instruction's targets stays (R29). -/
theorem Executes.keepsHalvesBut {s u : State} {i : Instr} {n c : Nat} (h : Executes s i u n c) :
    KeepsHalvesBut (writtenHalves i) s u := by
  cases h with
  | nop | unimpl | rlca | rrca | ldAtPairA | ldAtA16Sp => exact fun r _ => by simp
  | ldPairD16 rr | incPair rr | decPair rr => simpa using setWide_keepsHalvesBut s rr _
  | ldHalfD8 r d8 => simpa using setHalf_keepsHalvesBut s r d8
  | incHalf r b | decHalf r b =>
    simpa [KeepsHalvesBut] using setHalf_keepsHalvesBut s r b

theorem memWrite_keepsCellsBut (s : State) (addr : Word) (v : Byte) :
    KeepsCellsBut [addr] s (s.memWrite addr v) :=
  fun _ hx => s.memRead_memWrite_other v (List.ne_of_not_mem_cons hx)

theorem memWrite16_keepsCellsBut (s : State) (addr v : Word) :
    KeepsCellsBut [addr, addr + 1] s (s.memWrite16 addr v) := by
  intro x hx
  obtain ⟨hlow, hhigh⟩ : x ≠ addr ∧ x ≠ addr + 1 := by simpa using hx
  exact s.memRead_memWrite16_other v hlow hhigh

@[simp] theorem storedCells_ldAtPairA (rr : Pair) (s : State) :
    storedCells (ldAtPairA rr) s = [s.wide rr] := by cases rr <;> rfl

/-- A cell outside those an instruction stores to stays (R29). -/
theorem Executes.keepsCellsBut {s u : State} {i : Instr} {n c : Nat} (h : Executes s i u n c) :
    KeepsCellsBut (storedCells i s) s u := by
  cases h with
  | ldAtPairA rr => rw [storedCells_ldAtPairA]; exact memWrite_keepsCellsBut s _ _
  | ldAtA16Sp a16 => exact memWrite16_keepsCellsBut s a16 s.sp
  | _ => exact fun x _ => by simp

@[simp] theorem storedCells_ldHalfD8 (r : Half) (d8 : Byte) (s : State) :
    storedCells (ldHalfD8 r d8) s = [] := by cases r <;> rfl

@[simp] theorem storedCells_incHalf (r : Half) (s : State) : storedCells (incHalf r) s = [] := by
  cases r <;> rfl

@[simp] theorem storedCells_decHalf (r : Half) (s : State) : storedCells (decHalf r) s = [] := by
  cases r <;> rfl

/-- A completed instruction advances `pc` and `cycles`, and keeps `SP`, `IR` and every half and cell
it does not write (R29, 40_engine_step.md R113). -/
theorem Executes.frame {s u : State} {i : Instr} {n c : Nat} (h : Executes s i u n c) :
    Advances s (u.retire n c) n c ∧ KeepsHalvesBut (writtenHalves i) s (u.retire n c) ∧
      KeepsSpecials s (u.retire n c) ∧ KeepsCellsBut (storedCells i s) s (u.retire n c) := by
  refine ⟨?advances, ?halves, ⟨h.sp, h.ir⟩, h.keepsCellsBut⟩
  case advances =>
    rw [Advances, State.retire_pc, State.retire_cycles, h.pc, h.cycles]
    exact ⟨rfl, rfl⟩
  case halves =>
    intro r hr
    rw [State.retire_half, h.keepsHalvesBut r hr]

/-- Settles O43: the frame of what an instruction executes, which `retire` keeps. -/
theorem onlyTheAccessMatrixIsWritten : Obligations.OnlyTheAccessMatrixIsWritten := by
  intro i s t h
  obtain ⟨u, n, c, hu, rfl⟩ := executes_of_exec_next h
  obtain ⟨-, hhalves, ⟨hsp, hir⟩, hcells⟩ := hu.frame
  exact ⟨hsp, hir, hu.accumulator_carry, hu.digitFlags, hhalves, hcells⟩

end Sys2Proof.Proofs
end

section
/-! PROOFS. The whole step (40_engine_step.md, 60_exceptions.md R203): its outcomes, what it adds to
`pc` and `cycles`, what it does not read, the invariant, and runs. -/

namespace Sys2Proof.Proofs

open Sys2Proof Sys2Proof.Machine Sys2Proof.Claims

/-! ### The two ways a step ends (R117, R203) -/

theorem executes_of_step_next {s t : State} (h : step s = .next t) :
    ∃ u n c, Executes s.fetch s.fetch.fetchedInstr u n c ∧ t = u.retire n c :=
  executes_of_exec_next h

/-- A step that raises leaves what Fetch left, with free values in `MAR` and `MDR` (R203). -/
theorem raises_of_step_fault {s t : State} {e : EngineError} (h : step s = .fault (.raised e t)) :
    Raises s.fetch s.fetch.fetchedInstr e ∧ t = s.fetch.drawStaging :=
  raises_of_exec_fault h

theorem step_completes_or_raises (s : State) :
    (∃ t, step s = .next t) ∨ ∃ e, Raises s.fetch s.fetch.fetchedInstr e ∧
      step s = .fault (.raised e s.fetch.drawStaging) := by
  obtain ⟨u, n, c, -, h⟩ | h := exec_cases s.fetch.fetchedInstr s.fetch
  · exact .inl ⟨_, h⟩
  · exact .inr h

/-- The instruction a step runs is a faulting slot exactly at the six faulting bytes (R99). -/
theorem fetchedInstr_mem_faultingSlots_iff (s : State) :
    s.fetch.fetchedInstr ∈ faultingSlots ↔ s.memRead s.pc ∈ faultingOpcodes := by
  rw [State.fetch_fetchedInstr, dispatch_mem_faultingSlots_iff]

theorem opcodeByte_incHalf_mem (r : Half) : (incHalf r).opcodeByte ∈ incHalfOpcodes := by
  cases r <;> decide

theorem opcodeByte_decHalf_mem (r : Half) : (decHalf r).opcodeByte ∈ decHalfOpcodes := by
  cases r <;> decide

/-- The error of an instruction and its opcode: InvalidRegisterTarget in the faulting slots, or
EncodingError with a value out of range in INC r and DEC r (R201, R202). -/
theorem Raises.error_opcode {s : State} {i : Instr} {e : EngineError} (h : Raises s i e) :
    (i ∈ faultingSlots ∧ e = .invalidRegisterTarget s.opcode) ∨
      ∃ v, e = .encodingError v ∧ i.opcodeByte ∈ incHalfOpcodes ++ decHalfOpcodes ∧
        (v < 0 ∨ 99 < v) := by
  cases h with
  | faulting hi => exact .inl ⟨hi, rfl⟩
  | incHalf hout =>
    exact .inr ⟨_, rfl, List.mem_append_left _ (opcodeByte_incHalf_mem _), by omega⟩
  | decHalf hout =>
    exact .inr ⟨_, rfl, List.mem_append_right _ (opcodeByte_decHalf_mem _), by omega⟩

/-- Settles O40: at a faulting byte the slot raises; elsewhere a step completes or the error is that
of INC r or DEC r. -/
theorem stepOutcomesAreThree : Obligations.StepOutcomesAreThree := by
  intro s
  by_cases hb : s.memRead s.pc ∈ faultingOpcodes
  · have hraise := exec_faultingSlot ((fetchedInstr_mem_faultingSlots_iff s).mpr hb) s.fetch
    rw [State.fetch_opcode] at hraise
    exact .inr (.inl ⟨_, hraise, hb⟩)
  · obtain ⟨t, ht⟩ | ⟨e, hraises, ht⟩ := step_completes_or_raises s
    · exact .inl ⟨t, ht, hb⟩
    · obtain ⟨hslot, -⟩ | ⟨v, rfl, hopcode, hv⟩ := hraises.error_opcode
      · exact absurd ((fetchedInstr_mem_faultingSlots_iff s).mp hslot) hb
      · rw [State.fetch_fetchedInstr_opcodeByte] at hopcode
        exact .inr (.inr ⟨v, _, ht, hopcode, hv⟩)

/-- Settles O41: the state left is that of Fetch but for `MAR` and `MDR`. -/
theorem errorLeavesOnlyFetch : Obligations.ErrorLeavesOnlyFetch := by
  intro s t e h
  obtain ⟨-, rfl⟩ := raises_of_step_fault h
  exact ⟨zeroExtend_byte_toNat _, rfl, rfl, rfl, rfl, fun r _ => by simp, ⟨rfl, rfl, rfl, rfl⟩,
    fun _ _ => rfl⟩

/-! ### Length and cost (R114, R115) -/

theorem cycleCost_unimplemented {b : Byte} (h : isUnimplemented b = true) : cycleCost b = 4 := by
  revert b; decide

/-- An instruction retires with the operand bytes and the cost its opcode has (R96, R102). -/
theorem Executes.length_cost {s u : State} {i : Instr} {n c : Nat} (h : Executes s i u n c)
    (hi : i.wellFormed = true) : opcodeLength i.opcodeByte = n + 1 ∧ cycleCost i.opcodeByte = c := by
  cases h with
  | unimpl b => exact ⟨opcodeLength_unimplemented hi, cycleCost_unimplemented hi⟩
  | nop | rlca | rrca | ldAtA16Sp => exact ⟨rfl, rfl⟩
  | ldPairD16 rr | ldAtPairA rr | incPair rr | decPair rr => cases rr <;> exact ⟨rfl, rfl⟩
  | ldHalfD8 r | incHalf r | decHalf r => cases r <;> exact ⟨rfl, rfl⟩

/-- Settles O42: Fetch adds 1 to `pc` and `retire` the operand bytes and the cost. -/
theorem completedStepAdvancesByLengthAndCost :
    Obligations.CompletedStepAdvancesByLengthAndCost := by
  intro s t h
  obtain ⟨u, n, c, hu, rfl⟩ := executes_of_step_next h
  have hlc := hu.length_cost s.fetch.fetchedInstr_wellFormed
  rw [State.fetch_fetchedInstr_opcodeByte] at hlc
  obtain ⟨hlength, hcost⟩ := hlc
  obtain ⟨⟨hpc, hcycles⟩, -, ⟨-, hir⟩, -⟩ := hu.frame
  refine ⟨?pc, ?cycles, ?ir⟩
  case pc =>
    rw [hpc, State.fetch_pc, hlength, BitVec.add_assoc, Nat.add_comm n 1, BitVec.ofNat_add]
    rfl
  case cycles => rw [hcycles, State.fetch_cycles, hcost]
  case ir => rw [hir, State.fetch_ir, zeroExtend_byte_toNat]

/-! ### What no instruction reads: the flags (R38) -/

/-- `u` is `t` but for the flags. -/
def AgreesButFlags (t u : State) : Prop := withFlags u t.fZ t.fN t.fH t.fC = t

/-- The two outcomes are of one kind, with the same error, and their states agree but for flags. -/
def OutcomesAgree : StepOutcome → StepOutcome → Prop
  | .next t, .next u => AgreesButFlags t u
  | .fault (.raised e t), .fault (.raised e' u) => e' = e ∧ AgreesButFlags t u
  | _, _ => False

theorem OutcomesAgree.of_next {t u : State} (h : withFlags u t.fZ t.fN t.fH t.fC = t) :
    OutcomesAgree (.next t) (.next u) := h

theorem OutcomesAgree.next {t : State} {o : StepOutcome} (h : OutcomesAgree (.next t) o) :
    ∃ u, o = .next u ∧ AgreesButFlags t u := by
  match o, h with
  | .next u, h => exact ⟨u, rfl, h⟩

theorem OutcomesAgree.raised {e : EngineError} {t : State} {o : StepOutcome}
    (h : OutcomesAgree (.fault (.raised e t)) o) :
    ∃ u, o = .fault (.raised e u) ∧ AgreesButFlags t u := by
  match o, h with
  | .fault (.raised _ u), ⟨rfl, h⟩ => exact ⟨u, rfl, h⟩

section Flags

variable (s : State) (z n h c : Bool) (r : Half)

theorem withFlags_half : (withFlags s z n h c).half r = s.half r := by cases r <;> rfl

theorem setHalfBcd_withFlags (d : Int) : (withFlags s z n h c).setHalfBcd r d =
    (s.setHalfBcd r d).map fun t => withFlags t z n h c := by
  unfold State.setHalfBcd
  cases decimalToBcd d with
  | none => rfl
  | some b => cases r <;> rfl

theorem incrementHalf_withFlags :
    OutcomesAgree (incrementHalf r s) (incrementHalf r (withFlags s z n h c)) := by
  rw [incrementHalf, incrementHalf, withFlags_half, writeIncremented, writeIncremented,
    setHalfBcd_withFlags]
  cases s.setHalfBcd r (bcdToDecimal (s.half r) + 1) with
  | error e => exact ⟨rfl, rfl⟩
  | ok t => exact .of_next rfl

theorem decrementHalf_withFlags :
    OutcomesAgree (decrementHalf r s) (decrementHalf r (withFlags s z n h c)) := by
  rw [decrementHalf, decrementHalf, withFlags_half, writeDecremented, writeDecremented,
    setHalfBcd_withFlags]
  cases s.setHalfBcd r (bcdToDecimal (s.half r) - 1) with
  | error e => exact ⟨rfl, rfl⟩
  | ok t => exact .of_next rfl

/-- No instruction reads a flag: with other flags it answers alike. -/
theorem exec_withFlags (i : Instr) :
    OutcomesAgree (exec i s) (exec i (withFlags s z n h c)) := by
  cases i with
  | incB | incC | incD | incE | incH | incL => exact incrementHalf_withFlags s z n h c _
  | decB | decC | decD | decE | decH | decL => exact decrementHalf_withFlags s z n h c _
  | ldSpD16 | incSp | decSp | incA | decA | ldAD8 => exact ⟨rfl, rfl⟩
  | _ => exact .of_next rfl

/-- Fetch and decode read no flag either. -/
theorem step_withFlags : OutcomesAgree (step s) (step (withFlags s z n h c)) :=
  exec_withFlags s.fetch z n h c s.fetch.fetchedInstr

end Flags

/-- Settles O44: the outcomes of the two steps agree but for flags. -/
theorem noInstructionReadsAFlag : Obligations.NoInstructionReadsAFlag := by
  intro s z n h c
  have hagree := step_withFlags s z n h c
  constructor
  · intro t ht
    rw [ht] at hagree
    exact hagree.next
  · intro e t ht
    rw [ht] at hagree
    exact hagree.raised

/-! ### What no instruction reads: `MAR` and `MDR` (R31, C5) -/

/-- `s` with other staging registers. -/
def withStaging (s : State) (mar mdr : Word) : State := { s with mar := mar, mdr := mdr }

section Staging

variable (s : State) (mar mdr : Word) (r : Half)

theorem withStaging_half : (withStaging s mar mdr).half r = s.half r := by cases r <;> rfl

theorem setHalfBcd_withStaging (d : Int) : (withStaging s mar mdr).setHalfBcd r d =
    (s.setHalfBcd r d).map fun t => withStaging t mar mdr := by
  unfold State.setHalfBcd
  cases decimalToBcd d with
  | none => rfl
  | some b => cases r <;> rfl

theorem incrementHalf_withStaging :
    incrementHalf r (withStaging s mar mdr) = incrementHalf r s := by
  rw [incrementHalf, incrementHalf, withStaging_half, writeIncremented, writeIncremented,
    setHalfBcd_withStaging]
  cases s.setHalfBcd r (bcdToDecimal (s.half r) + 1) <;> rfl

theorem decrementHalf_withStaging :
    decrementHalf r (withStaging s mar mdr) = decrementHalf r s := by
  rw [decrementHalf, decrementHalf, withStaging_half, writeDecremented, writeDecremented,
    setHalfBcd_withStaging]
  cases s.setHalfBcd r (bcdToDecimal (s.half r) - 1) <;> rfl

/-- No instruction reads `MAR` or `MDR`, and each ends by drawing them anew. -/
theorem exec_withStaging (i : Instr) : exec i (withStaging s mar mdr) = exec i s := by
  cases i with
  | incB | incC | incD | incE | incH | incL => exact incrementHalf_withStaging s mar mdr _
  | decB | decC | decD | decE | decH | decL => exact decrementHalf_withStaging s mar mdr _
  | _ => rfl

end Staging

/-- Settles O45: Fetch overwrites `IR` and carries `MAR` and `MDR` to an instruction that reads
neither. -/
theorem noInstructionReadsTheStagingRegisters :
    Obligations.NoInstructionReadsTheStagingRegisters :=
  fun s mar mdr _ => exec_withStaging s.fetch mar mdr s.fetch.fetchedInstr

/-! ### The invariant, and runs (R28, R31, R32) -/

/-- What an instruction stores keeps memory canonical. -/
theorem Executes.mem_wf {s u : State} {i : Instr} {n c : Nat} (h : Executes s i u n c)
    (hwf : Memory.wf s.mem = true) : Memory.wf u.mem = true := by
  cases h with
  | ldAtPairA rr => exact State.memWrite_wf hwf
  | ldAtA16Sp a16 => exact State.memWrite16_wf hwf
  | _ => simpa using hwf

theorem Executes.cost_pos {s u : State} {i : Instr} {n c : Nat} (h : Executes s i u n c) :
    0 < c := by cases h <;> decide

/-- No instruction makes a zero accumulator non-zero: the rotates only move its bits. -/
theorem Executes.zero_accumulator {s u : State} {i : Instr} {n c : Nat} (h : Executes s i u n c)
    (ha : s.a = 0x00#8) : u.a = 0x00#8 := by
  cases h with
  | rlca => rw [State.setCarry_a, State.setA_a, ha]; rfl
  | rrca => rw [State.setCarry_a, State.setA_a, ha]; rfl
  | _ => simpa using ha

theorem inv_of_step_next {s t : State} (h : step s = .next t) (hs : s.Inv) : t.Inv := by
  obtain ⟨u, n, c, hu, rfl⟩ := executes_of_step_next h
  obtain ⟨hwf, -⟩ := hs
  refine ⟨hu.mem_wf hwf, ?_⟩
  rw [State.retire_ir, hu.ir, State.fetch_ir, highByte_zeroExtend]

theorem inv_of_step_fault {s t : State} {e : EngineError} (h : step s = .fault (.raised e t))
    (hs : s.Inv) : t.Inv := by
  obtain ⟨-, rfl⟩ := raises_of_step_fault h
  obtain ⟨hwf, -⟩ := hs
  exact ⟨hwf, highByte_zeroExtend _⟩

theorem sp_of_step_next {s t : State} (h : step s = .next t) : t.sp = s.sp := by
  obtain ⟨u, n, c, hu, rfl⟩ := executes_of_step_next h
  exact hu.sp

theorem zero_accumulator_of_step_next {s t : State} (h : step s = .next t) (ha : s.a = 0x00#8) :
    t.a = 0x00#8 := by
  obtain ⟨u, n, c, hu, rfl⟩ := executes_of_step_next h
  exact hu.zero_accumulator ha

theorem cycles_lt_of_step_next {s t : State} (h : step s = .next t) : s.cycles < t.cycles := by
  obtain ⟨u, n, c, hu, rfl⟩ := executes_of_step_next h
  have := hu.cost_pos
  rw [State.retire_cycles, hu.cycles, State.fetch_cycles]
  omega

/-- Settles O46: a completed step stores inside memory, and both outcomes keep the `IR` of Fetch. -/
theorem stepKeepsTheInvariant : Obligations.StepKeepsTheInvariant :=
  fun _ hs => ⟨fun _ h => inv_of_step_next h hs, fun _ _ h => inv_of_step_fault h hs⟩

/-- Settles O47: no cell is listed and `IR` is 0. -/
theorem resetMeetsTheInvariant : Obligations.ResetMeetsTheInvariant := ⟨rfl, rfl⟩

/-- Settles O48, by induction on the run. -/
theorem runsKeepStackPointerAndZeroAccumulator :
    Obligations.RunsKeepStackPointerAndZeroAccumulator := by
  intro s t h
  induction h with
  | refl => exact ⟨rfl, id, .inl rfl, id⟩
  | tail _ hstep ih =>
    obtain ⟨hsp, ha, hcycles, hinv⟩ := ih
    refine ⟨(sp_of_step_next hstep).trans hsp,
      fun hs => zero_accumulator_of_step_next hstep (ha hs), .inr ?grows,
      fun hs => inv_of_step_next hstep (hinv hs)⟩
    case grows =>
      have hlt := cycles_lt_of_step_next hstep
      obtain rfl | hle := hcycles
      · exact hlt
      · exact Nat.lt_trans hle hlt

end Sys2Proof.Proofs
end

section
/-! PROOFS. Registers (10_state.md R26, R37) and single instructions (40_engine_step.md R111,
41_loads_stores.md, 42_inc_dec.md, 43_rotate_nop_unimpl.md). -/

namespace Sys2Proof.Machine

/-! ### Two bytes as a word, two digits as a byte (R26, R37) -/

theorem append_eq_joinBytes (hi lo : Byte) : hi ++ lo = joinBytes hi lo := by
  have hlo := lo.isLt
  apply BitVec.eq_of_toNat_eq
  rw [joinBytes_toNat, BitVec.toNat_append, ← Nat.shiftLeft_add_eq_or_of_lt hlo,
    Nat.shiftLeft_eq]

/-- The byte of a decimal value decodes to it (R37). -/
theorem bcdToDecimal_of_decimalToBcd {d : Int} {b : Byte} (h0 : 0 ≤ d)
    (h : decimalToBcd d = some b) : (bcdToDecimal b : Int) = d := by
  obtain ⟨hhi, hlo⟩ := decimalToBcd_nibbles h
  rw [bcdToDecimal, hhi, hlo]
  omega

/-- A valid BCD byte is the byte of what it decodes to (R37). -/
theorem decimalToBcd_bcdToDecimal {b : Byte} (hhi : highNibble b ≤ 9) (hlo : lowNibble b ≤ 9) :
    decimalToBcd (bcdToDecimal b) = some b := by
  have h99 := bcdToDecimal_le_of_digits hhi hlo
  rw [decimalToBcd_inRange (by omega) (by omega), Int.toNat_natCast]
  congr 1
  apply BitVec.eq_of_toNat_eq
  have hb := b.isLt
  rw [BitVec.toNat_ofNat]
  unfold bcdToDecimal highNibble lowNibble at *
  omega

/-- The bytes that decode to 99 or more (R158). -/
theorem le_bcdToDecimal_iff (b : Byte) : 99 ≤ bcdToDecimal b ↔ 0x99 ≤ b.toNat := by
  have hb := b.isLt
  unfold bcdToDecimal highNibble lowNibble
  omega

/-- The bytes that decode to 0 or to 101 or more (R165). -/
theorem bcdToDecimal_out_iff (b : Byte) : (bcdToDecimal b = 0 ∨ 101 ≤ bcdToDecimal b) ↔
    (b = 0x00#8 ∨ (0x9B ≤ b.toNat ∧ b.toNat ≤ 0x9F) ∨ 0xA1 ≤ b.toNat) := by
  have hb := b.isLt
  have hzero : b = 0x00#8 ↔ b.toNat = 0 := BitVec.toNat_inj.symm
  rw [hzero]
  unfold bcdToDecimal highNibble lowNibble
  omega

/-! ### The rotates as arithmetic (43_rotate_nop_unimpl.md R181, R182) -/

theorem rotateLeftByte_toNat (b : Byte) :
    (rotateLeftByte b).toNat = b.toNat * 2 % 256 + b.toNat / 128 := by
  have hb := b.isLt
  have hout := (b.extractLsb' 7 1).isLt
  rw [rotateLeftByte, BitVec.toNat_append, ← Nat.shiftLeft_add_eq_or_of_lt hout, Nat.shiftLeft_eq,
    BitVec.extractLsb'_toNat, BitVec.extractLsb'_toNat, Nat.shiftRight_eq_div_pow,
    Nat.shiftRight_eq_div_pow]
  omega

theorem rotateRightByte_toNat (b : Byte) :
    (rotateRightByte b).toNat = b.toNat / 2 + 128 * (b.toNat % 2) := by
  have hb := b.isLt
  have hrest := (b.extractLsb' 1 7).isLt
  rw [rotateRightByte, BitVec.toNat_append, ← Nat.shiftLeft_add_eq_or_of_lt hrest,
    Nat.shiftLeft_eq, BitVec.extractLsb'_toNat, BitVec.extractLsb'_toNat,
    Nat.shiftRight_eq_div_pow, Nat.shiftRight_eq_div_pow]
  omega

theorem rotateRightByte_rotateLeftByte (b : Byte) : rotateRightByte (rotateLeftByte b) = b := by
  have hb := b.isLt
  have hshift : b.toNat * 2 % 256 = b.toNat % 128 * 2 := Nat.mul_mod_mul_right 2 _ 128
  have htop : b.toNat / 128 = 0 ∨ b.toNat / 128 = 1 := by omega
  apply BitVec.eq_of_toNat_eq
  rw [rotateRightByte_toNat, rotateLeftByte_toNat, hshift]
  obtain htop | htop := htop <;> omega

theorem topBit_iff (b : Byte) : b.getLsbD 7 = true ↔ 128 ≤ b.toNat := by
  have hb := b.isLt
  rw [BitVec.getLsbD, Nat.testBit_eq_decide_div_mod_eq, decide_eq_true_iff]
  omega

theorem bottomBit_iff (b : Byte) : b.getLsbD 0 = true ↔ b.toNat % 2 = 1 := by
  rw [BitVec.getLsbD, Nat.testBit_zero, decide_eq_true_iff]

end Sys2Proof.Machine

namespace Sys2Proof.Proofs

open Sys2Proof Sys2Proof.Machine Sys2Proof.Claims

/-- Settles O7: each half is read back as it was written, by a wide write or by two raw writes. -/
theorem wideReadIsHighThenLow : Obligations.WideReadIsHighThenLow := by
  intro s rr
  refine ⟨?_, s.setWide_wide_same rr, fun hi lo => ?_⟩
  · rw [State.wide, State.pair_eq_halves, RegPair.wide, joinBytes_toNat]
  · have hpair : (s.setHalf (highHalf rr) hi).setHalf (lowHalf rr) lo = s.setPair rr ⟨hi, lo⟩ :=
      (s.setPair_eq_setHalf rr ⟨hi, lo⟩).symm
    rw [append_eq_joinBytes, hpair, State.wide, State.setPair_pair_same, RegPair.wide]

/-- Settles O10: the two digits of a value are the two nibbles of its byte. -/
theorem bcdRoundTrip : Obligations.BcdRoundTrip := by
  refine ⟨fun d h0 h99 => ?_, fun b hhi hlo => ?_⟩
  · have hb := decimalToBcd_inRange h0 h99
    exact ⟨_, hb, bcdToDecimal_of_decimalToBcd h0 hb⟩
  · rw [shiftRight_four_toNat] at hhi
    rw [and_lowMask_toNat] at hlo
    exact decimalToBcd_bcdToDecimal hhi hlo

/-- Settles O13: Fetch is an update of `IR` and `pc`, and `+` on words wraps. -/
theorem fetchLoadsOpcodeAndAdvances : Obligations.FetchLoadsOpcodeAndAdvances := by
  intro s
  refine ⟨?ir, ?pc, rfl⟩
  case ir => rw [State.fetch_ir, zeroExtend_byte_toNat]
  case pc => rw [State.fetch_pc]; exact BitVec.toNat_add ..

/-! ### Loads and stores (41_loads_stores.md) -/

/-- Settles O23: the load is a wide write of the immediate. -/
theorem loadPairImmediateCompletes : Obligations.LoadPairImmediateCompletes := fun rr d16 s =>
  ⟨_, exec_ldPairD16 rr d16 s, setWide_retire_wide rr s d16 2 12, setWide_retire_frame rfl⟩

/-- Settles O25: a half write is seen at that half alone. -/
theorem loadHalfImmediateCompletes : Obligations.LoadHalfImmediateCompletes := by
  intro r d8 s
  obtain ⟨hadvances, hhalves, hspecials, hcells⟩ := (Executes.ldHalfD8 (s := s) r d8).frame
  rw [writtenHalves_ldHalfD8] at hhalves
  rw [storedCells_ldHalfD8] at hcells
  exact ⟨_, exec_ldHalfD8 r d8 s, by simp, hadvances, by simp, hhalves, by simp [KeepsFlags],
    hspecials, hcells⟩

/-- Settles O26: the store is a 16-bit write of `SP`. -/
theorem storeStackPointerCompletes : Obligations.StoreStackPointerCompletes := by
  intro a16 s hwf
  obtain ⟨hadvances, hhalves, hspecials, hcells⟩ := (Executes.ldAtA16Sp (s := s) a16).frame
  refine ⟨_, exec_ldAtA16Sp a16 s, ?low, ?high, hcells, hadvances, rfl, hhalves,
    ⟨rfl, rfl, rfl, rfl⟩, hspecials⟩
  case low => rw [State.retire_memRead, State.memRead_memWrite16_low _ _ hwf, lowByte_toNat]
  case high => rw [State.retire_memRead, State.memRead_memWrite16_high _ _ hwf, highByte_toNat]

/-- Settles O27: the store is in memory before the next Fetch reads there. -/
theorem storeIsSeenByTheNextFetch : Obligations.StoreIsSeenByTheNextFetch := by
  intro rr s t hwf h hpc
  rw [exec_ldAtPairA] at h
  cases h
  rw [State.fetch_opcode, ← hpc, State.retire_memRead, State.memRead_memWrite_same _ _ hwf]

/-! ### INC r and DEC r (42_inc_dec.md) -/

/-- What an instruction that raises leaves, on the state Fetch left (60_exceptions.md R203). -/
theorem leavesAll_drawStaging (s : State) : LeavesAll s s.drawStaging :=
  ⟨rfl, rfl, rfl, fun r _ => by simp, ⟨rfl, rfl, rfl, rfl⟩, ⟨rfl, rfl⟩, fun _ _ => rfl⟩

/-- Settles O30: the byte written holds the digits of the sum, which is never 0. -/
theorem incrementHalfCompletes : Obligations.IncrementHalfCompletes := by
  intro r s h
  obtain ⟨b, hb, hexec⟩ := exec_incHalf_inRange h
  obtain ⟨hadvances, hhalves, hspecials, hcells⟩ := (Executes.incHalf (s := s) r b).frame
  rw [writtenHalves_incHalf] at hhalves
  rw [storedCells_incHalf] at hcells
  refine ⟨_, hexec, ?digits, ?zero, by simp, by simp, by simp, hadvances, by simp, hhalves,
    hspecials, hcells⟩
  case digits => simpa using decimalToBcd_nibbles hb
  case zero =>
    rw [State.retire_fZ, State.setIncFlags_fZ, decide_eq_false_iff_not]
    omega

/-- Settles O31: the raise is that of a sum above 99, told by the byte. -/
theorem incrementHalfRaisesAboveRange : Obligations.IncrementHalfRaisesAboveRange := by
  intro r s
  refine ⟨le_bcdToDecimal_iff _, fun h => ⟨_, ?_, leavesAll_drawStaging s⟩⟩
  exact exec_incHalf_outOfRange ((le_bcdToDecimal_iff _).mpr h)

/-- Settles O32: the byte written holds the digits of the difference, which is 0 for 1 alone. -/
theorem decrementHalfCompletes : Obligations.DecrementHalfCompletes := by
  intro r s h1 h100
  obtain ⟨b, hb, hexec⟩ := exec_decHalf_inRange h1 h100
  obtain ⟨hadvances, hhalves, hspecials, hcells⟩ := (Executes.decHalf (s := s) r b).frame
  rw [writtenHalves_decHalf] at hhalves
  rw [storedCells_decHalf] at hcells
  refine ⟨_, hexec, ?digits, ?zero, by simp, by simp, by simp, hadvances, by simp, hhalves,
    hspecials, hcells⟩
  case digits => simpa using decimalToBcd_nibbles hb
  case zero =>
    rw [State.retire_fZ, State.setDecFlags_fZ, decide_eq_true_iff]
    omega

/-- Settles O33: the raise is that of a difference out of range, told by the byte. -/
theorem decrementHalfRaisesOutOfRange : Obligations.DecrementHalfRaisesOutOfRange := fun _ s =>
  ⟨bcdToDecimal_out_iff _, fun h => ⟨_, exec_decHalf_outOfRange h, leavesAll_drawStaging s⟩⟩

/-! ### Rotates, NOP, faulting slots (43_rotate_nop_unimpl.md) -/

/-- Settles O34: the rotated byte and the bit shifted out, as arithmetic. -/
theorem rotateLeftCompletes : Obligations.RotateLeftCompletes := fun s =>
  ⟨_, exec_rlca s, rotateLeftByte_toNat s.a, topBit_iff s.a, rfl, rfl, rfl, ⟨rfl, rfl⟩,
    fun r _ => by simp, ⟨rfl, rfl⟩, fun _ _ => rfl⟩

/-- Settles O35: the rotated byte and the bit shifted out, as arithmetic. -/
theorem rotateRightCompletes : Obligations.RotateRightCompletes := fun s =>
  ⟨_, exec_rrca s, rotateRightByte_toNat s.a, bottomBit_iff s.a, rfl, rfl, rfl, ⟨rfl, rfl⟩,
    fun r _ => by simp, ⟨rfl, rfl⟩, fun _ _ => rfl⟩

/-- Settles O36: the bit RLCA moved to the bottom is the one RRCA moves back, and `fC` gets it. -/
theorem rotateRightUndoesRotateLeft : Obligations.RotateRightUndoesRotateLeft := by
  intro s t u ht hu
  rw [exec_rlca] at ht
  cases ht
  rw [exec_rrca] at hu
  cases hu
  refine ⟨rotateRightByte_rotateLeftByte s.a, (bottomBit_iff (rotateLeftByte s.a)).trans ?_⟩
  have ha := s.a.isLt
  have heven : s.a.toNat * 2 % 256 % 2 = 0 := by omega
  rw [rotateLeftByte_toNat, Nat.add_mod, heven]
  omega

/-- Settles O37: NOP is the end of the Execute phase alone. -/
theorem nopCompletes : Obligations.NopCompletes := fun s => ⟨_, exec_nop s, retire_frame s 0 4⟩

theorem encode_faultingSlot_length : ∀ i ∈ faultingSlots, (encode i).length = 1 := by decide

/-- Settles O39: a faulting slot raises on the state Fetch left. -/
theorem faultingSlotsAlwaysRaise : Obligations.FaultingSlotsAlwaysRaise := fun i hi s =>
  ⟨encode_faultingSlot_length i hi, _, exec_faultingSlot hi s, leavesAll_drawStaging s⟩

end Sys2Proof.Proofs
end

section
/-! PROOFS. The host transactions (70_reset_and_hazards.md section 5): STEP and what it hands over,
LOAD, pokes and peeks, what any sequence keeps, and the parameter CYCLES_WIDTH (00_scope.md R7). -/

namespace Sys2Proof.Proofs

open Sys2Proof Sys2Proof.Machine Sys2Proof.Claims

/-! ### STEP (R238) -/

theorem transact_step_of_next {s t : State} (h : step s = .next t) :
    transact .step s = (.ok, t) := by
  rw [transact, stepTransaction, h]

theorem transact_step_of_fault {s t : State} {e : EngineError}
    (h : step s = .fault (.raised e t)) : transact .step s = (.err e, t) := by
  rw [transact, stepTransaction, h]

/-- Settles O56: STEP hands over the outcome of `step`, which is one of three. -/
theorem stepTransactionHandsOverTheOutcome : Obligations.StepTransactionHandsOverTheOutcome := by
  refine fun s => ⟨fun _ => transact_step_of_next, fun _ _ => transact_step_of_fault, ?reply⟩
  case reply =>
    obtain ⟨t, h, -⟩ | ⟨t, h, -⟩ | ⟨v, t, h, -⟩ := stepOutcomesAreThree s
    · exact .inl (by rw [transact_step_of_next h])
    · exact .inr (.inl ⟨_, by rw [transact_step_of_fault h]⟩)
    · exact .inr (.inr ⟨v, by rw [transact_step_of_fault h]⟩)

/-- Settles O52: `pc` was left after the opcode byte, and memory as it was. -/
theorem hostGoesOnAfterAnError : Obligations.HostGoesOnAfterAnError := by
  intro s t e h
  have hstep := transact_step_of_fault h
  obtain ⟨-, rfl⟩ := raises_of_step_fault h
  refine ⟨hstep, State.fetch_opcode _, fun u hu => ?_⟩
  rw [transactAll, hstep, transactAll, transact_step_of_next hu, transactAll]

/-! ### Any sequence of transactions (R237, R242) -/

theorem mem_wf_of_step_next {s t : State} (h : step s = .next t) (hwf : Memory.wf s.mem = true) :
    Memory.wf t.mem = true := by
  obtain ⟨u, n, c, hu, rfl⟩ := executes_of_step_next h
  exact hu.mem_wf hwf

/-- A STEP, also one that ends in an error, keeps memory canonical and `cycles` from falling. -/
theorem transact_step_keeps {s : State} (hwf : Memory.wf s.mem = true) :
    Memory.wf (transact .step s).2.mem = true ∧ s.cycles ≤ (transact .step s).2.cycles := by
  obtain ⟨t, h⟩ | ⟨e, -, h⟩ := step_completes_or_raises s
  · rw [transact_step_of_next h]
    exact ⟨mem_wf_of_step_next h hwf, Nat.le_of_lt (cycles_lt_of_step_next h)⟩
  · rw [transact_step_of_fault h]
    exact ⟨hwf, Nat.le_refl _⟩

theorem loadTransaction_keeps {s : State} (values : List Byte) (start : Nat)
    (hwf : Memory.wf s.mem = true) : Memory.wf (loadTransaction s values start).2.mem = true ∧
      (loadTransaction s values start).2.cycles = s.cycles := by
  obtain h | h := Nat.lt_or_ge Memory.cells (start + values.length)
  · rw [loadTransaction_pastEnd s h]
    exact ⟨hwf, rfl⟩
  · rw [loadTransaction_inside s h]
    exact ⟨Memory.writeRun_wf h hwf, rfl⟩

theorem bcdTransaction_keeps (s : State) (r : Half) (d : Int) :
    (bcdTransaction s r d).2.mem = s.mem ∧ (bcdTransaction s r d).2.cycles = s.cycles := by
  obtain ⟨⟨h0, h99⟩, -⟩ | ⟨hout, -⟩ := s.setHalfBcd_total r d
  · rw [bcdTransaction_of_some s r (decimalToBcd_inRange h0 h99)]
    exact ⟨by simp, by simp⟩
  · rw [bcdTransaction_outOfRange s r hout]
    exact ⟨rfl, rfl⟩

/-- One transaction keeps memory canonical, and only RESET lowers `cycles`. -/
theorem transact_keeps (x : Transaction) {s : State} (hwf : Memory.wf s.mem = true) :
    Memory.wf (transact x s).2.mem = true ∧ (x ≠ .reset → s.cycles ≤ (transact x s).2.cycles) := by
  cases x with
  | reset => exact ⟨rfl, fun h => absurd rfl h⟩
  | step =>
    obtain ⟨hmem, hcycles⟩ := transact_step_keeps hwf
    exact ⟨hmem, fun _ => hcycles⟩
  | load values start =>
    obtain ⟨hmem, hcycles⟩ := loadTransaction_keeps values start hwf
    exact ⟨hmem, fun _ => Nat.le_of_eq hcycles.symm⟩
  | writeCell addr v => exact ⟨State.memWrite_wf hwf, fun _ => Nat.le_refl _⟩
  | setHighBcd rr d | setLowBcd rr d =>
    obtain ⟨hmem, hcycles⟩ := bcdTransaction_keeps s _ d
    exact ⟨(congrArg Memory.wf hmem).trans hwf, fun _ => Nat.le_of_eq hcycles.symm⟩
  | setWide rr v => cases rr <;> exact ⟨hwf, fun _ => Nat.le_refl _⟩
  | pokeByte r v =>
    cases r with
    | a => exact ⟨hwf, fun _ => Nat.le_refl _⟩
    | half r => cases r <;> exact ⟨hwf, fun _ => Nat.le_refl _⟩
  | pokeWord r v => cases r <;> exact ⟨hwf, fun _ => Nat.le_refl _⟩
  | pokeFlag f v => cases f <;> exact ⟨hwf, fun _ => Nat.le_refl _⟩
  | _ => exact ⟨hwf, fun _ => Nat.le_refl _⟩

/-- Settles O53, by induction on the list. -/
theorem transactionsKeepMemoryCanonical : Obligations.TransactionsKeepMemoryCanonical := by
  intro xs
  induction xs with
  | nil => exact fun s hwf => ⟨hwf, fun _ => Nat.le_refl _⟩
  | cons x xs ih =>
    intro s hwf
    obtain ⟨hmem, hcycles⟩ := transact_keeps x hwf
    obtain ⟨hmems, hcycless⟩ := ih _ hmem
    refine ⟨hmems, fun hreset => ?_⟩
    obtain ⟨hx, hxs⟩ : Transaction.reset ≠ x ∧ Transaction.reset ∉ xs := by
      simpa using hreset
    exact Nat.le_trans (hcycles hx.symm) (hcycless hxs)

/-! ### LOAD of an instruction at `pc` (R232, R240) -/

/-- When the bytes from `pc` on begin with the encoding of a well-formed instruction, a step runs it. -/
theorem step_of_encoded {s : State} {i : Instr} {rest : List Byte} (hi : i.wellFormed = true)
    (h : [s.memRead s.pc, s.memRead (s.pc + 1), s.memRead (s.pc + 1 + 1)] = encode i ++ rest) :
    step s = exec i s.fetch := by
  have hdecode := decode_encode rest hi
  rw [← h] at hdecode
  rw [step, State.fetch_fetchedInstr_of_decode hdecode]

/-- The three bytes from `pc` on, as a run of addresses. -/
theorem threeBytes_eq_map (s : State) :
    [s.memRead s.pc, s.memRead (s.pc + 1), s.memRead (s.pc + 1 + 1)] =
      (List.range 3).map fun k => s.memRead (s.pc + BitVec.ofNat 16 k) := by
  simp [List.range_succ, BitVec.add_assoc]

/-- At most three bytes that stand at `pc` are what the bytes read there begin with. -/
theorem exists_threeBytes_eq_append {s : State} {bytes : List Byte} (hlen : bytes.length ≤ 3)
    (h : ∀ (k : Nat) (hk : k < bytes.length), s.memRead (s.pc + BitVec.ofNat 16 k) = bytes[k]) :
    ∃ rest, [s.memRead s.pc, s.memRead (s.pc + 1), s.memRead (s.pc + 1 + 1)] = bytes ++ rest := by
  have hbytes : ((List.range bytes.length).map fun k => s.memRead (s.pc + BitVec.ofNat 16 k)) =
      bytes := List.ext_getElem (by simp) fun k _ hk => by simpa using h k hk
  obtain ⟨d, hd⟩ := Nat.exists_eq_add_of_le hlen
  rw [threeBytes_eq_map, hd, List.range_add, List.map_append, hbytes]
  exact ⟨_, rfl⟩

theorem encode_length_le (i : Instr) : (encode i).length ≤ 3 := by
  cases i <;> simp [encode]

/-- The bytes a LOAD puts at `pc`, inside the memory, are read from `pc` on (R240). -/
theorem memRead_load_at_pc {s t : State} {bytes : List Byte} (hwf : Memory.wf s.mem = true)
    (hfit : s.pc.toNat + bytes.length ≤ 65536)
    (h : transact (.load bytes s.pc.toNat) s = (.ok, t)) (k : Nat) (hk : k < bytes.length) :
    t.memRead (t.pc + BitVec.ofNat 16 k) = bytes[k] := by
  rw [transact, loadTransaction_inside s hfit] at h
  cases h
  have haddr : (s.pc + BitVec.ofNat 16 k).toNat = s.pc.toNat + k := by
    rw [BitVec.toNat_add, BitVec.toNat_ofNat]
    omega
  rw [State.memRead, haddr]
  exact Memory.read_writeRun_inside hwf hfit hk

/-- Settles O54: the loaded bytes are the encoding, and the bytes at `pc` decode to its
instruction. -/
theorem loadedInstructionIsTheOneRun : Obligations.LoadedInstructionIsTheOneRun := by
  intro s t i hwf hi hfit h
  obtain ⟨rest, hbytes⟩ :=
    exists_threeBytes_eq_append (encode_length_le i) (memRead_load_at_pc hwf hfit h)
  exact step_of_encoded hi hbytes

/-! ### Pokes and peeks (R241) -/

theorem setByteReg_byteReg (s : State) (r : ByteReg) (v : Byte) :
    (s.setByteReg r v).byteReg r = v ∧ (s.setByteReg r v).setByteReg r (s.byteReg r) = s := by
  cases r with
  | a => exact ⟨rfl, rfl⟩
  | half r =>
    refine ⟨s.setHalf_half_same r v, ?_⟩
    exact (s.setHalf_setHalf_same r v _).trans (s.setHalf_half_self r)

theorem setWordReg_wordReg (s : State) (r : WordReg) (v : Word) :
    (s.setWordReg r v).wordReg r = v ∧ (s.setWordReg r v).setWordReg r (s.wordReg r) = s := by
  cases r <;> exact ⟨rfl, rfl⟩

theorem setFlag_flag (s : State) (f : Flag) (v : Bool) :
    (s.setFlag f v).flag f = v ∧ (s.setFlag f v).setFlag f (s.flag f) = s := by
  cases f <;> exact ⟨rfl, rfl⟩

theorem setWide_setWide_wide (s : State) (rr : Pair) (v : Word) :
    (s.setWide rr v).setWide rr (s.wide rr) = s := by
  simp [State.setWide, State.wide]

/-- Settles O51: a poke is an update of one field; the last write of a register, pair or cell is the
one that stays, so poking the old value back restores the state. -/
theorem pokeWritesOneRegister : Obligations.PokeWritesOneRegister := by
  intro s
  refine ⟨?byteReg, ?wordReg, ?flag, ?wide, ?cell, ?byteBack, ?wordBack, ?flagBack, ?wideBack,
    ?cellBack⟩
  case byteReg => exact fun v => ⟨rfl, rfl, rfl, rfl, rfl, rfl, rfl⟩
  case wordReg => exact fun v => ⟨rfl, rfl, rfl, rfl, rfl⟩
  case flag => exact fun v => ⟨rfl, rfl, rfl, rfl⟩
  case wide => exact fun v => ⟨rfl, rfl, rfl⟩
  case cell =>
    exact fun hwf addr v => ⟨_, rfl, rfl, State.memRead_memWrite_same addr v hwf,
      memWrite_keepsCellsBut s addr v⟩
  case byteBack =>
    intro r v
    obtain ⟨hread, hback⟩ := setByteReg_byteReg s r v
    exact ⟨congrArg Reply.byte hread, hback⟩
  case wordBack =>
    intro r v
    obtain ⟨hread, hback⟩ := setWordReg_wordReg s r v
    exact ⟨congrArg Reply.word hread, hback⟩
  case flagBack =>
    intro f v
    obtain ⟨hread, hback⟩ := setFlag_flag s f v
    exact ⟨congrArg Reply.bit hread, hback⟩
  case wideBack =>
    intro rr v
    exact ⟨congrArg Reply.word (s.setWide_wide_same rr v), setWide_setWide_wide s rr v⟩
  case cellBack =>
    intro hwf addr v
    exact ⟨congrArg Reply.byte (State.memRead_memWrite_same addr v hwf),
      State.memWrite_memWrite_memRead addr v hwf⟩

/-- Settles O57: each read port hands out the field it names, and the halves of a pair are its two
half-registers. -/
theorem peekAnswersAndChangesNothing : Obligations.PeekAnswersAndChangesNothing := by
  intro s
  refine ⟨⟨rfl, fun _ => rfl⟩, ⟨rfl, rfl, rfl, rfl, rfl⟩, ⟨rfl, rfl, rfl, rfl⟩, ?pairs,
    fun _ => rfl, rfl⟩
  case pairs =>
    intro rr
    rw [transact, transact, State.pair_eq_halves]
    exact ⟨rfl, rfl, rfl⟩

/-! ### CYCLES_WIDTH (R7, D6) -/

/-- A step of the machine with a counter of the given width completes where the unbounded one does,
in the same state with its count wrapped. -/
theorem stepWith_next_iff {s u : State} {width : CycleWidth} :
    stepWith s width = .next u ↔ ∃ t, step s = .next t ∧ u = t.wrapCycles width := by
  constructor
  · intro h
    obtain ⟨t, ht⟩ | ⟨e, -, ht⟩ := step_completes_or_raises s
    · rw [stepWith_next ht] at h
      cases h
      exact ⟨t, ht, rfl⟩
    · rw [stepWith_raised ht] at h
      cases h
  · rintro ⟨t, ht, rfl⟩
    exact stepWith_next ht width

/-- A step of the machine with a counter of the given width raises where the unbounded one does. -/
theorem stepWith_raised_iff {s u : State} {e : EngineError} {width : CycleWidth} :
    stepWith s width = .fault (.raised e u) ↔
      ∃ t, step s = .fault (.raised e t) ∧ u = t.wrapCycles width := by
  constructor
  · intro h
    obtain ⟨t, ht⟩ | ⟨e', -, ht⟩ := step_completes_or_raises s
    · rw [stepWith_next ht] at h
      cases h
    · rw [stepWith_raised ht] at h
      cases h
      exact ⟨_, ht, rfl⟩
  · rintro ⟨t, ht, rfl⟩
    exact stepWith_raised ht width

/-- A run from the wrapped state ends in the wrapped ends of the unbounded runs. -/
theorem runsFor_wrapCycles_iff (width : CycleWidth) (n : Nat) (s u : State) :
    runsFor n (s.wrapCycles width) u width ↔ ∃ t, runsFor n s t ∧ u = t.wrapCycles width := by
  induction n generalizing s with
  | zero =>
    constructor
    · rintro rfl
      exact ⟨s, rfl, rfl⟩
    · rintro ⟨t, rfl, rfl⟩
      rfl
  | succ n ih =>
    constructor
    · rintro ⟨v, hstep, hrun⟩
      rw [stepWith_wrapCycles, stepWith_next_iff] at hstep
      obtain ⟨v, hstep, rfl⟩ := hstep
      obtain ⟨t, hrun', rfl⟩ := (ih v).mp hrun
      exact ⟨t, ⟨v, (stepWith_unbounded s).trans hstep, hrun'⟩, rfl⟩
    · rintro ⟨t, ⟨v, hstep, hrun⟩, rfl⟩
      rw [stepWith_unbounded] at hstep
      refine ⟨v.wrapCycles width, ?_, (ih v).mpr ⟨t, hrun, rfl⟩⟩
      rw [stepWith_wrapCycles]
      exact stepWith_next hstep width

section WrappedTransactions

variable (s : State) (width : CycleWidth)

theorem wrapCycles_pair (rr : Pair) : (s.wrapCycles width).pair rr = s.pair rr := by
  cases rr <;> rfl

theorem wrapCycles_half (r : Half) : (s.wrapCycles width).half r = s.half r := by
  cases r <;> rfl

theorem wrapCycles_wide (rr : Pair) : (s.wrapCycles width).wide rr = s.wide rr := by
  cases rr <;> rfl

theorem wrapCycles_resolve (mode : AddressingMode) :
    (s.wrapCycles width).resolve mode = s.resolve mode := by
  cases mode with
  | registerPairDirect rr => rw [State.resolve, wrapCycles_wide]; rfl
  | registerDirect rr useHigh =>
    cases useHigh <;> (rw [State.resolve, wrapCycles_pair]; rfl)
  | _ => rfl

theorem loadTransaction_wrapCycles (values : List Byte) (start : Nat) :
    loadTransaction (s.wrapCycles width) values start =
      ((loadTransaction s values start).1,
        (loadTransaction s values start).2.wrapCycles width) := by
  rw [loadTransaction, loadTransaction, State.wrapCycles_mem]
  cases Memory.writeBytes s.mem values start <;> rfl

theorem bcdTransaction_wrapCycles (r : Half) (d : Int) :
    bcdTransaction (s.wrapCycles width) r d =
      ((bcdTransaction s r d).1, (bcdTransaction s r d).2.wrapCycles width) := by
  rw [bcdTransaction, bcdTransaction, State.setHalfBcd_wrapCycles]
  cases s.setHalfBcd r d <;> rfl

/-- A transaction that neither resets, steps nor reads the counter carries it along. -/
theorem transact_wrapCycles {x : Transaction} (hreset : x ≠ .reset) (hstep : x ≠ .step)
    (hcycles : x ≠ .peekCycles) : transact x (s.wrapCycles width) =
      ((transact x s).1, (transact x s).2.wrapCycles width) := by
  cases x with
  | reset => exact absurd rfl hreset
  | step => exact absurd rfl hstep
  | peekCycles => exact absurd rfl hcycles
  | query mode => rw [transact, transact, wrapCycles_resolve]
  | load values start => exact loadTransaction_wrapCycles s width values start
  | setHighBcd rr d | setLowBcd rr d => exact bcdTransaction_wrapCycles s width _ d
  | getHigh rr | getLow rr | toInt rr => rw [transact, transact, wrapCycles_pair]
  | getWide rr => rw [transact, transact, wrapCycles_wide]
  | setWide rr v => cases rr <;> rfl
  | peekByte r =>
    cases r with
    | a => rfl
    | half r => rw [transact, transact, State.byteReg, State.byteReg, wrapCycles_half]
  | pokeByte r v =>
    cases r with
    | a => rfl
    | half r => cases r <;> rfl
  | peekWord r | pokeWord r => cases r <;> rfl
  | peekFlag f | pokeFlag f => cases f <;> rfl
  | readCell | writeCell => rfl

/-- A STEP of the wrapped state hands over the same and leaves the same but for the count. -/
theorem transact_step_wrapCycles :
    (transact .step (s.wrapCycles width)).1 = (transact .step s).1 ∧
      (transact .step (s.wrapCycles width)).2.wrapCycles width =
        (transact .step s).2.wrapCycles width := by
  obtain ⟨t, h⟩ | ⟨e, -, h⟩ := step_completes_or_raises s
  · have hwrapped := stepWith_next h width
    rw [← stepWith_wrapCycles, stepWith_next_iff] at hwrapped
    obtain ⟨u, hu, heq⟩ := hwrapped
    rw [transact_step_of_next h, transact_step_of_next hu]
    exact ⟨rfl, heq.symm⟩
  · have hwrapped := stepWith_raised h width
    rw [← stepWith_wrapCycles, stepWith_raised_iff] at hwrapped
    obtain ⟨u, hu, heq⟩ := hwrapped
    rw [transact_step_of_fault h, transact_step_of_fault hu]
    exact ⟨rfl, heq.symm⟩

/-- Every transaction of the wrapped state leaves the same but for the count, and only the read of
the counter hands over something else. -/
theorem transact_wrapCycles_agrees (x : Transaction) :
    (transact x (s.wrapCycles width)).2.wrapCycles width = (transact x s).2.wrapCycles width ∧
      (x ≠ .peekCycles → (transact x (s.wrapCycles width)).1 = (transact x s).1) := by
  by_cases hreset : x = .reset
  · subst hreset
    exact ⟨rfl, fun _ => rfl⟩
  by_cases hstep : x = .step
  · subst hstep
    obtain ⟨hreply, hstate⟩ := transact_step_wrapCycles s width
    exact ⟨hstate, fun _ => hreply⟩
  by_cases hcycles : x = .peekCycles
  · subst hcycles
    exact ⟨State.wrapCycles_wrapCycles s width, absurd rfl⟩
  · rw [transact_wrapCycles s width hreset hstep hcycles]
    exact ⟨State.wrapCycles_wrapCycles _ width, fun _ => rfl⟩

end WrappedTransactions

/-- Settles O55: steps and transactions commute with wrapping the count, and runs follow by
induction on their length. -/
theorem cycleWidthReachesOnlyTheCounter : Obligations.CycleWidthReachesOnlyTheCounter := by
  refine ⟨stepWith_unbounded, transactWith_unbounded, fun width =>
    ⟨runsFor_wrapCycles_iff width, fun x s => ?_⟩⟩
  obtain ⟨hstate, hreply⟩ := transact_wrapCycles_agrees s width x
  refine ⟨hstate, ?reply⟩
  case reply =>
    split
    case isTrue hx =>
      subst hx
      rfl
    case isFalse hx => exact hreply hx

end Sys2Proof.Proofs
end
